-- ==== Sys2Proof/Word.lean ====
section
/-! DEFINITION. The word types of the RDB: bytes, 16-bit checksum words and 32-bit words (00_scope.md R10). -/

namespace Sys2Proof

/-- A byte of a byte string (R11). -/
abbrev Byte := BitVec 8

/-- A 16-bit checksum word or IMM16 operand. -/
abbrev Half := BitVec 16

/-- A 32-bit word of the command port, of a register or of the response stream (R70, R17 to R37). -/
abbrev Word := BitVec 32

/-- A byte string (R11): a frame, a payload, a data phase. -/
abbrev Bytes := List Byte

end Sys2Proof
end

