-- ==== Sys2Proof/Syntax.lean ====
section
/-! DEFINITION. The 25 commands of the RDB (30_encoding.md R77, opcode_table.json), one constructor a row, and
the opcodes and operand forms they are encoded with (R71, R72). -/

namespace Sys2Proof

/-- A command with its operands. `d` is the byte string D of a LEN form (R73), `w` the u16 of CK_ADD, `r` a
register number and `v` the data word of WRREG (R74). -/
inductive Instr where
  /-- `NOP` (R100). -/
  | nop
  /-- `RESET`, soft reset (R101). -/
  | reset
  /-- `RDREG`, read a register (R102). -/
  | rdreg (r : Byte)
  /-- `WRREG`, write a register (R103). -/
  | wrreg (r : Byte) (v : Word)
  /-- `CK_CLR`, clear the accumulator (R120). -/
  | ckClr
  /-- `CK_ADD`, add one 16-bit word (R121). -/
  | ckAdd (w : Half)
  /-- `CK_ADDB`, add a byte string as words (R122). -/
  | ckAddb (d : Bytes)
  /-- `CK_FOLD`, fold carries (R123). -/
  | ckFold
  /-- `CK_FIN`, fold and complement (R124). -/
  | ckFin
  /-- `CK_GEN`, checksum of a frame (R125). -/
  | ckGen (d : Bytes)
  /-- `CK_VER`, verify a frame (R126). -/
  | ckVer (d : Bytes)
  /-- `SND_SRC`, append source bytes (R142). -/
  | sndSrc (d : Bytes)
  /-- `SND_EOF`, end of source (R143). -/
  | sndEof
  /-- `SND_START`, start the transmission (R144). -/
  | sndStart
  /-- `SND_RX`, a frame arrives at the sender (R145). -/
  | sndRx (d : Bytes)
  /-- `SND_RXERR`, a receive error at the sender (R146). -/
  | sndRxerr
  /-- `SND_TICK`, one time-unit of the retransmission timer (R150). -/
  | sndTick
  /-- `SND_TXERR`, a send error of the sender (R151). -/
  | sndTxerr
  /-- `SND_ABORT`, the sender's shutdown signal (R152). -/
  | sndAbort
  /-- `RCV_OPEN`, create a receiver session (R172). -/
  | rcvOpen (d : Bytes)
  /-- `RCV_RX`, a frame arrives at the receiver (R174). -/
  | rcvRx (d : Bytes)
  /-- `RCV_RXERR`, a receive error at the receiver (R176). -/
  | rcvRxerr
  /-- `RCV_TICK`, one time-unit of the time-wait timer (R177). -/
  | rcvTick
  /-- `RCV_TXERR`, a send error of the receiver (R178). -/
  | rcvTxerr
  /-- `RCV_ABORT`, the receiver's shutdown signal (R179). -/
  | rcvAbort
deriving DecidableEq, Repr

/-- The opcodes (R77), one for each command. -/
inductive Opc where
  | nop | reset | rdreg | wrreg
  | ckClr | ckAdd | ckAddb | ckFold | ckFin | ckGen | ckVer
  | sndSrc | sndEof | sndStart | sndRx | sndRxerr | sndTick | sndTxerr | sndAbort
  | rcvOpen | rcvRx | rcvRxerr | rcvTick | rcvTxerr | rcvAbort
deriving DecidableEq, Repr

/-- The operand forms (R72). -/
inductive Form where
  /-- no operand: IMM16 must be zero -/
  | none
  /-- IMM16 is a u16 value -/
  | word
  /-- IMM16[7:0] is a register number, IMM16[15:8] must be zero -/
  | reg
  /-- IMM16 is a byte count, the bytes follow in the data phase -/
  | len
deriving DecidableEq, Repr

end Sys2Proof
end

