-- ==== Sys2Proof/WellFormed.lean ====
section
/-! DEFINITION. Which terms of `Instr` are commands the port can carry: a data phase has at most 65535 bytes
(30_encoding.md R72, R76). Every other operand is bounded by its type. -/

namespace Sys2Proof

/-- The most bytes one data phase carries (R76). -/
def maxDataBytes : Nat := 65535

/-- A byte string fits in one data phase (R72 LEN form: L is a u16). -/
def dataFits (d : Bytes) : Bool := decide (d.length ≤ maxDataBytes)

/-- The well-formed commands (R72, R76). -/
def Instr.wellFormed (i : Instr) : Bool :=
  match i with
  | .nop => true
  | .reset => true
  | .rdreg _ => true
  | .wrreg _ _ => true
  | .ckClr => true
  | .ckAdd _ => true
  | .ckAddb d => dataFits d
  | .ckFold => true
  | .ckFin => true
  | .ckGen d => dataFits d
  | .ckVer d => dataFits d
  | .sndSrc d => dataFits d
  | .sndEof => true
  | .sndStart => true
  | .sndRx d => dataFits d
  | .sndRxerr => true
  | .sndTick => true
  | .sndTxerr => true
  | .sndAbort => true
  | .rcvOpen d => dataFits d
  | .rcvRx d => dataFits d
  | .rcvRxerr => true
  | .rcvTick => true
  | .rcvTxerr => true
  | .rcvAbort => true

end Sys2Proof
end

