-- ==== Sys2Proof/Decode.lean ====
section
/-! DEFINITION. The command encoding (30_encoding.md): the fields of a command word (R71), the opcode map (R77),
the decoder over the words of the command port (R72 to R80), and the encoder. -/

namespace Sys2Proof

/-! ### Fields and byte order -/

/-- OPC, bits 31:24 of a command word (R71). -/
def opcField (w : Word) : Byte := w.extractLsb' 24 8

/-- RSV, bits 23:16 of a command word (R71). -/
def rsvField (w : Word) : Byte := w.extractLsb' 16 8

/-- IMM16, bits 15:0 of a command word (R71). -/
def immField (w : Word) : Half := w.extractLsb' 0 16

/-- The command word with an opcode, RSV = 0 and an operand (R71). -/
def commandWord (opc : Byte) (imm : Half) : Word := opc ++ (0#8) ++ imm

/-- The four data bytes of a data word, the first in its most significant byte (R73). -/
def wordBytes (w : Word) : Bytes :=
  [w.extractLsb' 24 8, w.extractLsb' 16 8, w.extractLsb' 8 8, w.extractLsb' 0 8]

/-- The first `l` bytes a data phase carries; the bytes of the last word beyond them are ignored (R73). -/
def dataBytes (l : Nat) (ws : List Word) : Bytes := (ws.flatMap wordBytes).take l

/-- The data words of a byte string, the last one filled up with zero bytes (R73, R82). -/
def packWords : Bytes → List Word
  | a :: b :: c :: d :: rest => (a ++ b ++ c ++ d) :: packWords rest
  | [a, b, c] => [a ++ b ++ c ++ 0#8]
  | [a, b] => [a ++ b ++ 0#8 ++ 0#8]
  | [a] => [a ++ 0#8 ++ 0#8 ++ 0#8]
  | [] => []

/-! ### The opcode map -/

/-- The OPC value of each command (R77). -/
def Opc.code : Opc → Byte
  | .nop => 0x00
  | .reset => 0x01
  | .rdreg => 0x02
  | .wrreg => 0x03
  | .ckClr => 0x40
  | .ckAdd => 0x41
  | .ckAddb => 0x42
  | .ckFold => 0x43
  | .ckFin => 0x44
  | .ckGen => 0x45
  | .ckVer => 0x46
  | .sndSrc => 0x80
  | .sndEof => 0x81
  | .sndStart => 0x82
  | .sndRx => 0x83
  | .sndRxerr => 0x84
  | .sndTick => 0x85
  | .sndTxerr => 0x86
  | .sndAbort => 0x87
  | .rcvOpen => 0xC0
  | .rcvRx => 0xC1
  | .rcvRxerr => 0xC2
  | .rcvTick => 0xC3
  | .rcvTxerr => 0xC4
  | .rcvAbort => 0xC5

/-- The operand form of each command (R77). -/
def Opc.form : Opc → Form
  | .nop | .reset | .ckClr | .ckFold | .ckFin => .none
  | .sndEof | .sndStart | .sndRxerr | .sndTick | .sndTxerr | .sndAbort => .none
  | .rcvRxerr | .rcvTick | .rcvTxerr | .rcvAbort => .none
  | .ckAdd => .word
  | .rdreg | .wrreg => .reg
  | .ckAddb | .ckGen | .ckVer | .sndSrc | .sndRx | .rcvOpen | .rcvRx => .len

/-- The rows of the opcode map, in its order (R77). -/
def Opc.all : List Opc :=
  [.nop, .reset, .rdreg, .wrreg, .ckClr, .ckAdd, .ckAddb, .ckFold, .ckFin, .ckGen, .ckVer]
    ++ [.sndSrc, .sndEof, .sndStart, .sndRx, .sndRxerr, .sndTick, .sndTxerr, .sndAbort]
    ++ [.rcvOpen, .rcvRx, .rcvRxerr, .rcvTick, .rcvTxerr, .rcvAbort]

/-- The row whose OPC a command word has; none for an illegal opcode (R78, R79). -/
def Opc.ofCode (c : Byte) : Option Opc := Opc.all.find? fun o => decide (o.code = c)

/-- The bits of a command word that a form fixes (R78). -/
def Form.mask : Form → Word
  | .none => 0xFFFFFFFF
  | .reg => 0xFFFFFF00
  | .word | .len => 0xFFFF0000

/-- No reserved or must-be-zero bit of the command word is set: the row's mask and match agree (R78, R80). -/
def Opc.reservedClear (o : Opc) (w : Word) : Bool := decide (w &&& o.form.mask = commandWord o.code 0)

/-- How many data words follow the command word (R72, R75). -/
def Opc.dataWords (o : Opc) (imm : Half) : Nat :=
  match o.form with
  | .none | .word => 0
  | .reg => if o = .wrreg then 1 else 0
  | .len => (imm.toNat + 3) / 4

/-- The length in words of the command a command word begins; 1 for an illegal opcode (R75). -/
def commandLength (w : Word) : Nat :=
  match Opc.ofCode (opcField w) with
  | none => 1
  | some o => 1 + o.dataWords (immField w)

/-! ### Decoding -/

/-- The command an opcode, its IMM16 and its data words make (R72 to R74). -/
def Opc.instr (o : Opc) (imm : Half) (ws : List Word) : Instr :=
  match o with
  | .nop => .nop
  | .reset => .reset
  | .rdreg => .rdreg (imm.setWidth 8)
  | .wrreg => .wrreg (imm.setWidth 8) (ws.headD 0)
  | .ckClr => .ckClr
  | .ckAdd => .ckAdd imm
  | .ckAddb => .ckAddb (dataBytes imm.toNat ws)
  | .ckFold => .ckFold
  | .ckFin => .ckFin
  | .ckGen => .ckGen (dataBytes imm.toNat ws)
  | .ckVer => .ckVer (dataBytes imm.toNat ws)
  | .sndSrc => .sndSrc (dataBytes imm.toNat ws)
  | .sndEof => .sndEof
  | .sndStart => .sndStart
  | .sndRx => .sndRx (dataBytes imm.toNat ws)
  | .sndRxerr => .sndRxerr
  | .sndTick => .sndTick
  | .sndTxerr => .sndTxerr
  | .sndAbort => .sndAbort
  | .rcvOpen => .rcvOpen (dataBytes imm.toNat ws)
  | .rcvRx => .rcvRx (dataBytes imm.toNat ws)
  | .rcvRxerr => .rcvRxerr
  | .rcvTick => .rcvTick
  | .rcvTxerr => .rcvTxerr
  | .rcvAbort => .rcvAbort

/-- Why the decoder rejects a command that has wholly arrived. -/
inductive Reject where
  /-- the OPC is in no row of the opcode map (R79) -/
  | illegalOpcode
  /-- a reserved or must-be-zero bit of a command of this opcode is set (R80) -/
  | reservedField (o : Opc)
deriving DecidableEq, Repr

/-- What the decoder finds at the front of the command port. -/
inductive Decoded where
  /-- no command word, or its data phase has not wholly arrived (log 3) -/
  | incomplete
  /-- a command, and the words after it -/
  | instr (i : Instr) (rest : List Word)
  /-- a rejected command, and the words after it (R75: its data phase is consumed) -/
  | rejected (r : Reject) (rest : List Word)
deriving DecidableEq, Repr

/-- The decoder (R72 to R80): total on any words of the command port. -/
def decode : List Word → Decoded
  | [] => .incomplete
  | w :: rest =>
    match Opc.ofCode (opcField w) with
    | none => .rejected .illegalOpcode rest
    | some o =>
      let k := o.dataWords (immField w)
      if rest.length < k then .incomplete
      else if o.reservedClear w then .instr (o.instr (immField w) (rest.take k)) (rest.drop k)
      else .rejected (.reservedField o) (rest.drop k)

/-! ### Encoding -/

/-- The opcode of a command (R77). -/
def Instr.opc : Instr → Opc
  | .nop => .nop
  | .reset => .reset
  | .rdreg _ => .rdreg
  | .wrreg _ _ => .wrreg
  | .ckClr => .ckClr
  | .ckAdd _ => .ckAdd
  | .ckAddb _ => .ckAddb
  | .ckFold => .ckFold
  | .ckFin => .ckFin
  | .ckGen _ => .ckGen
  | .ckVer _ => .ckVer
  | .sndSrc _ => .sndSrc
  | .sndEof => .sndEof
  | .sndStart => .sndStart
  | .sndRx _ => .sndRx
  | .sndRxerr => .sndRxerr
  | .sndTick => .sndTick
  | .sndTxerr => .sndTxerr
  | .sndAbort => .sndAbort
  | .rcvOpen _ => .rcvOpen
  | .rcvRx _ => .rcvRx
  | .rcvRxerr => .rcvRxerr
  | .rcvTick => .rcvTick
  | .rcvTxerr => .rcvTxerr
  | .rcvAbort => .rcvAbort

/-- The IMM16 of a command (R72). -/
def Instr.imm : Instr → Half
  | .rdreg r | .wrreg r _ => r.setWidth 16
  | .ckAdd w => w
  | .ckAddb d | .ckGen d | .ckVer d | .sndSrc d | .sndRx d | .rcvOpen d | .rcvRx d => BitVec.ofNat 16 d.length
  | .nop | .reset | .ckClr | .ckFold | .ckFin => 0
  | .sndEof | .sndStart | .sndRxerr | .sndTick | .sndTxerr | .sndAbort => 0
  | .rcvRxerr | .rcvTick | .rcvTxerr | .rcvAbort => 0

/-- The data phase of a command (R72 to R74). -/
def Instr.dataPhase : Instr → List Word
  | .wrreg _ v => [v]
  | .ckAddb d | .ckGen d | .ckVer d | .sndSrc d | .sndRx d | .rcvOpen d | .rcvRx d => packWords d
  | .nop | .reset | .rdreg _ | .ckClr | .ckAdd _ | .ckFold | .ckFin => []
  | .sndEof | .sndStart | .sndRxerr | .sndTick | .sndTxerr | .sndAbort => []
  | .rcvRxerr | .rcvTick | .rcvTxerr | .rcvAbort => []

/-- The words of a command: the command word, then its data phase (R70 to R74). -/
def encode (i : Instr) : List Word := commandWord i.opc.code i.imm :: i.dataPhase

/-! ### Words as the opcode table numbers them -/

/-- The words of the command that the table's bits `w` begin: bit 0 is the least significant bit of the first
word, a later word's bits count on from it, and every bit from `nbits` on is 0 (log 4). -/
def tableWords (nbits w : Nat) : List Word :=
  let v := w % 2 ^ nbits
  (List.range (commandLength (BitVec.ofNat 32 v))).map fun k => BitVec.ofNat 32 (v >>> (32 * k))

/-- The command the decoder reads from the table's bits `w`; none where it rejects them. -/
def decodeTableWord (nbits w : Nat) : Option Instr :=
  match decode (tableWords nbits w) with
  | .instr i _ => some i
  | .rejected _ _ => none
  | .incomplete => none

end Sys2Proof
end

