-- ==== Sys2Proof/Config.lean ====
section
/-! DEFINITION. The implementation parameters of the RDB (00_scope.md R6 to R9), the opaque parameters of the
reset state, and the free value an unwritten byte of the source buffer reads as. -/

namespace Sys2Proof

/-- The four OPEN parameters (R6 to R8). They are an argument of the model: State holds them, and a statement
about every state is a statement about every parameter. -/
structure Params where
  /-- `N`, the maximum payload of a frame (R6). -/
  n : Word
  /-- `SRC_CAP`, the capacity of the source buffer (R7). -/
  srcCap : Word
  /-- `RTO_RESET`, the reset value of RTO (R8). -/
  rtoReset : Word
  /-- `TWDUR_RESET`, the reset value of TWDUR (R8). -/
  twdurReset : Word
deriving DecidableEq, Repr

/-- The legal ranges of the parameters (R6 to R8). -/
abbrev Params.Legal (p : Params) : Prop :=
  (1 ≤ p.n.toNat ∧ p.n.toNat ≤ 65521) ∧ (1 ≤ p.srcCap.toNat ∧ p.srcCap.toNat ≤ 0x7FFFFFFF)
    ∧ 1 ≤ p.rtoReset.toNat ∧ 1 ≤ p.twdurReset.toNat

/-- `WSIZE_RESET` = 1 (R8). -/
def Config.wsizeReset : Word := 1

/-- `N - 1` of the machine whose reset state is `State.reset`: OPEN, so any legal value (R6, log 1). -/
opaque Config.nMinusOne : Fin 65521

/-- `SRC_CAP - 1` of that machine: OPEN, so any legal value (R7, log 1). -/
opaque Config.srcCapMinusOne : Fin 2147483647

/-- `RTO_RESET - 1` of that machine: OPEN, so any legal value (R8, log 1). -/
opaque Config.rtoResetMinusOne : Fin 4294967295

/-- `TWDUR_RESET - 1` of that machine: OPEN, so any legal value (R8, log 1). -/
opaque Config.twdurResetMinusOne : Fin 4294967295

/-- The parameters of the machine whose reset state is `State.reset` (log 1). -/
def Config.params : Params where
  n := BitVec.ofNat 32 (Config.nMinusOne.val + 1)
  srcCap := BitVec.ofNat 32 (Config.srcCapMinusOne.val + 1)
  rtoReset := BitVec.ofNat 32 (Config.rtoResetMinusOne.val + 1)
  twdurReset := BitVec.ofNat 32 (Config.twdurResetMinusOne.val + 1)

/-- What an address of the source buffer that nothing has written reads as: unspecified (R51, R240), so a free
value (log 7). -/
opaque Config.srcUnwritten : Nat → Byte

theorem Config.params_legal : Config.params.Legal := by
  have h1 := Config.nMinusOne.isLt
  have h2 := Config.srcCapMinusOne.isLt
  have h3 := Config.rtoResetMinusOne.isLt
  have h4 := Config.twdurResetMinusOne.isLt
  simp only [Params.Legal, Config.params, BitVec.toNat_ofNat]
  omega

end Sys2Proof
end

