-- ==== Sys2Proof/Machine/Codec.lean ====
section
/-! DEFINITION. The packet codec as pure functions (41_checksum.md R104 to R110) over the frame layout of
20_memory.md R40 to R44: big-endian fields, the one's-complement checksum, verify, decode and encode. -/

namespace Sys2Proof.Machine

/-! ### Bytes and fields -/

/-- `FRAME_BYTES` = N + 14 (R9, R40). -/
def frameBytes (p : Params) : Nat := p.n.toNat + 14

/-- `CK_OFF` = 12 + N, the offset of the checksum field (R9, R40). -/
def ckOff (p : Params) : Nat := 12 + p.n.toNat

/-- `be16(s, i)`: the big-endian 16-bit value at byte i (R11). -/
def be16 (s : Bytes) (i : Nat) : Half := s.getD i 0 ++ s.getD (i + 1) 0

/-- `be32(s, i)`: the big-endian 32-bit value at byte i (R11). -/
def be32 (s : Bytes) (i : Nat) : Word := s.getD i 0 ++ s.getD (i + 1) 0 ++ s.getD (i + 2) 0 ++ s.getD (i + 3) 0

/-- `enc16(v)`: the two bytes of v, most significant first (R11). -/
def enc16 (v : Half) : Bytes := [v.extractLsb' 8 8, v.extractLsb' 0 8]

/-- `enc32(v)`: the four bytes of v, most significant first (R11). -/
def enc32 (v : Word) : Bytes := [v.extractLsb' 24 8, v.extractLsb' 16 8, v.extractLsb' 8 8, v.extractLsb' 0 8]

/-- The four kinds of a frame (R41). -/
inductive Kind where
  | data | finalData | request | ack
deriving DecidableEq, Repr

/-- The KIND code of a kind (R41). -/
def Kind.code : Kind → Word
  | .data => 0
  | .finalData => 1
  | .request => 2
  | .ack => 3

/-- The SEQ field as a pattern, bytes 0 to 3 (R40). -/
def seqField (f : Bytes) : Word := be32 f 0

/-- The KIND field, bytes 4 to 7, unsigned (R40). -/
def kindField (f : Bytes) : Word := be32 f 4

/-- The LEN field, bytes 8 to 11, two's complement (R40, R42). -/
def lenField (f : Bytes) : Int := (be32 f 8).toInt

/-- The CK field, at CK_OFF (R40). -/
def ckField (p : Params) (f : Bytes) : Half := be16 f (ckOff p)

/-! ### The checksum function -/

/-- `Words(s)` (R104): the big-endian 16-bit words of s, an odd last byte padded with one zero byte. -/
def words : Bytes → List Half
  | a :: b :: rest => (a ++ b) :: words rest
  | [a] => [a ++ 0#8]
  | [] => []

/-- `Sum(s)` (R104): the sum of the words, in 32-bit accumulation. -/
def sum32 (s : Bytes) : Word := BitVec.ofNat 32 ((words s).map BitVec.toNat).sum

/-- One pass of the fold: the low half plus the high half (R104). -/
def foldOnce (a : Word) : Word := (a &&& 0xFFFF#32) + (a >>> 16)

/-- `Fold(a)` (R104): fold until no carry remains, which takes at most two passes (R106, log 12). -/
def fold (a : Word) : Word :=
  if a >>> 16 = 0 then a
  else
    let b := foldOnce a
    if b >>> 16 = 0 then b else foldOnce b

/-- `CkOf(s)` (R104): the one's complement of the folded sum. -/
def ckOf (s : Bytes) : Half := (~~~ fold (sum32 s)).setWidth 16

/-- `Cover(f)` (R104): the 12 header bytes, then the first LEN payload bytes. -/
def cover (f : Bytes) : Bytes := f.take 12 ++ (f.drop 12).take (lenField f).toNat

/-- `Checksum(f)` (R104). -/
def checksum (f : Bytes) : Half := ckOf (cover f)

/-! ### Verify and decode -/

/-- The LEN field lies in 0 .. N (R105, R125). -/
def lenLegal (p : Params) (f : Bytes) : Bool := decide (0 ≤ lenField f ∧ lenField f ≤ p.n.toNat)

/-- `WellFormed(f)` (R105). -/
def wellFormedFrame (p : Params) (f : Bytes) : Bool :=
  decide (f.length = frameBytes p) && lenLegal p f && decide ((kindField f).toNat ≤ 3)

/-- `FrameValid(f)` (R107). -/
def frameValid (p : Params) (f : Bytes) : Bool := wellFormedFrame p f && decide (ckField p f = checksum f)

/-- `PAYLOAD` of a valid frame (R108). -/
def payload (f : Bytes) : Bytes := (f.drop 12).take (lenField f).toNat

/-! ### Encode -/

/-- The header H of a frame (R109). -/
def header (q : Word) (k : Kind) (len : Nat) : Bytes := enc32 q ++ enc32 k.code ++ enc32 (BitVec.ofNat 32 len)

/-- `EncodeFrame(q, k, p)` (R109); bytes of the payload area beyond LEN are zero (R44). -/
def encodeFrame (p : Params) (q : Word) (k : Kind) (pay : Bytes) : Bytes :=
  let h := header q k pay.length
  h ++ pay ++ List.replicate (p.n.toNat - pay.length) 0 ++ enc16 (ckOf (h ++ pay))

/-- `AckFrame(n)` (R110), its SEQ pattern n mod 2^32 given. -/
def ackFrame (p : Params) (q : Word) : Bytes := encodeFrame p q .ack []

/-- `RequestFrame(p)` (R110). -/
def requestFrame (p : Params) (pay : Bytes) : Bytes := encodeFrame p 0 .request pay

end Sys2Proof.Machine
end

