-- ==== Sys2Proof/Machine/State.lean ====
section
/-! DEFINITION. The state of the RDB as plain data: the registers of 10_state.md by unit, the source buffer, the
output streams, the words pending on the command port, and the reset state (70_reset_and_hazards.md R240). -/

namespace Sys2Proof.Machine

/-- The fatal causes of R222. -/
inductive FatalCause where
  /-- `TX_ERROR`, 0x01 -/
  | txError
  /-- `EMPTY_SOURCE`, 0x02 -/
  | emptySource
deriving DecidableEq, Repr

/-- `SSTATE` (R23): the sender's state, with its fatal cause when it is ERROR. Values 6 and 7 of ST are never
held and CAUSE is 0x00 in every other state, so no other value has a name (log 13). -/
inductive SndState where
  | idle | loading | ready | run | done
  | error (cause : FatalCause)
deriving DecidableEq, Repr

/-- `RSTATE` (R31): the receiver's state, with its fatal cause when it is ERROR (log 13). -/
inductive RcvState where
  | idle | receiving | finalAckSent | done
  | error (cause : FatalCause)
deriving DecidableEq, Repr

/-- `ERR` (R19); its bits 30:8 read 0 and are not held. -/
structure ErrReg where
  /-- `ERR.CMDERR`, bit 31 -/
  cmdErr : Bool
  /-- `ERR.CAUSE`, bits 7:0 -/
  cause : Byte
deriving DecidableEq, Repr

/-- The source buffer SRC (R51): the bytes something has written, by address, strictly rising. -/
abbrev Memory := List Host.Cell

/-- The registers of the sender window engine (R20 to R29) and its source buffer (R51). -/
structure Sender where
  /-- `WSIZE` (R20) -/
  wsize : Word
  /-- `RTO` (R21) -/
  rto : Word
  /-- `MAXPAY` (R22) -/
  maxpay : Word
  /-- `SSTATE` (R23) -/
  st : SndState
  /-- `BASE` (R24) -/
  base : Word
  /-- `NEXT` (R25) -/
  next : Word
  /-- `NUMPKT` (R26) -/
  numpkt : Word
  /-- `SRCLEN` (R27) -/
  srclen : Word
  /-- `STCTL.ARMED` (R28) -/
  armed : Bool
  /-- `STCNT` (R29) -/
  stcnt : Word
  /-- `SRC` (R51) -/
  src : Memory
deriving DecidableEq, Repr

/-- The registers of the receiver delivery engine (R30 to R34). -/
structure Receiver where
  /-- `TWDUR` (R30) -/
  twdur : Word
  /-- `RSTATE` (R31) -/
  st : RcvState
  /-- `EXPECTED` (R32) -/
  expected : Word
  /-- `LASTKIND.K` (R33) -/
  lastkind : Byte
  /-- `TWCNT` (R34) -/
  twcnt : Word
deriving DecidableEq, Repr

/-- The registers of the checksum unit (R35 to R37). -/
structure Csu where
  /-- `CKACC` (R35) -/
  acc : Word
  /-- `CKRES.CK` (R36) -/
  res : Half
  /-- `CKSTAT.CKOK` (R37) -/
  ok : Bool
  /-- `CKSTAT.CKOVF` (R37) -/
  ovf : Bool
deriving DecidableEq, Repr

/-- An item of the SINK stream (R56). -/
inductive SinkItem where
  /-- the payload of an accepted frame, empty where its LEN is 0 (log 11) -/
  | bytes (p : Bytes)
  /-- `SINK_CLOSE` -/
  | close
deriving DecidableEq, Repr

/-- The state of one RDB instance (R2, R39, R237). -/
structure State where
  /-- the implementation parameters, constant (R6 to R8; PARAM_N and PARAM_CAP read them, R17, R18) -/
  params : Params
  /-- `ERR` (R19) -/
  err : ErrReg
  /-- the sender window engine -/
  snd : Sender
  /-- the receiver delivery engine -/
  rcv : Receiver
  /-- the checksum unit -/
  csu : Csu
  /-- `STX`, all frames the sender has emitted, oldest first (R56) -/
  stx : List Bytes
  /-- `RTX`, all frames the receiver has emitted, oldest first (R56) -/
  rtx : List Bytes
  /-- `SINK`, all items delivered, oldest first (R56) -/
  sink : List SinkItem
  /-- `RSP`, all response words, oldest first (R56) -/
  rsp : List Word
  /-- the words the host has issued on the command port and the RDB has not taken yet, oldest first (R70) -/
  port : List Word
  /-- the reset input has been asserted and the reset has not been performed yet (R241, log 5) -/
  resetIn : Bool
deriving DecidableEq, Repr

/-- Why the machine stops. -/
inductive Fault where
  /-- SND_START, SND_RX or SND_TICK would build a data frame from an address of SRC that does not exist, SRC_CAP or
  above (R51). Raised by `sendData`. Safe: the model stops; no state that meets `State.Inv` reaches it (log 8). -/
  | srcAddress
deriving DecidableEq, Repr

/-- Why the model gives no meaning. -/
inductive Refusal where
  /-- An instruction without a meaning: raised by an arm of `exec` that rejects it by name. Safe: the model stops.
  No arm does: every command has its meaning. -/
  | notModelled (mnemonic : String)
deriving DecidableEq, Repr

/-- What performing a command answers. -/
abbrev Result := Host.Outcome State Fault Refusal

/-- `ERR` at reset (R19, R240). -/
def ErrReg.clear : ErrReg := { cmdErr := false, cause := 0 }

/-- The sender at reset (R20 to R29, R240). SRC lists nothing: its content is unspecified (log 7). -/
def Sender.reset (p : Params) : Sender where
  wsize := Config.wsizeReset
  rto := p.rtoReset
  maxpay := p.n
  st := .idle
  base := 0
  next := 0
  numpkt := 0
  srclen := 0
  armed := false
  stcnt := 0
  src := []

/-- The receiver at reset (R30 to R34, R240). -/
def Receiver.reset (p : Params) : Receiver where
  twdur := p.twdurReset
  st := .idle
  expected := 0
  lastkind := 0xFF
  twcnt := 0

/-- The checksum unit at reset (R35 to R37, R240). -/
def Csu.reset : Csu := { acc := 0, res := 0, ok := false, ovf := false }

/-- The state right after power-on reset of the machine with parameters `p` (R240 to R242): every register at its
reset value, nothing emitted yet, nothing on the command port. -/
def State.resetWith (p : Params) : State where
  params := p
  err := .clear
  snd := .reset p
  rcv := .reset p
  csu := .reset
  stx := []
  rtx := []
  sink := []
  rsp := []
  port := []
  resetIn := false

/-- The machine right after reset, its parameters left open (R240, log 1). -/
def State.reset : State := State.resetWith Config.params

end Sys2Proof.Machine
end

