-- ==== Sys2Proof/Machine/Flags.lean ====
section
/-! DEFINITION. The single-bit status flags of the RDB (10_state.md section 3) and how each is computed: CMDERR (R19,
R220), ARMED (R28), CKOK (R37, R126) and CKOVF (R37, R121, R122). -/

namespace Sys2Proof.Machine

/-- Causes of a refused command, in priority order (R221). -/
inductive RefuseCause where
  | illegalOpcode | reservedField | badLength | badRegister | readOnly | badState | badValue | capacity
deriving DecidableEq, Repr

/-- The cause codes of R221. -/
def RefuseCause.code : RefuseCause → Byte
  | .illegalOpcode => 0x01
  | .reservedField => 0x02
  | .badLength => 0x03
  | .badRegister => 0x04
  | .readOnly => 0x05
  | .badState => 0x06
  | .badValue => 0x07
  | .capacity => 0x08

/-- The cause codes of R222. -/
def FatalCause.code : FatalCause → Byte
  | .txError => 0x01
  | .emptySource => 0x02

/-- ERR after a refusal: CMDERR set, CAUSE the most recent cause (R220). -/
def errOfRefusal (c : RefuseCause) : ErrReg := { cmdErr := true, cause := c.code }

/-- One 16-bit addition into CKACC with its sticky carry flag CKOVF (R121): the sum wraps modulo 2^32, and the flag
is set when the exact sum does not fit. -/
def ckAddWord (c : Csu) (w : Half) : Csu :=
  let t := c.acc.toNat + w.toNat
  { c with acc := BitVec.ofNat 32 t, ovf := c.ovf || decide (2 ^ 32 ≤ t) }

/-- The additions of a list of words, in order (R122). -/
def ckAddWords (c : Csu) (ws : List Half) : Csu := ws.foldl ckAddWord c

/-- Arm or rearm the retransmission timer: ARMED set, a fresh count (R140). -/
def armTimer (g : Sender) : Sender := { g with armed := true, stcnt := 0 }

/-- Disarm the retransmission timer (R141, R145, R223). -/
def disarmTimer (g : Sender) : Sender := { g with armed := false, stcnt := 0 }

end Sys2Proof.Machine
end

