-- ==== Sys2Proof/Machine/Ops.lean ====
section
/-! DEFINITION. The named operations the commands share: the source buffer as memory, the packet view of it, emitting
into the streams, refusing a command, entering and leaving an ERROR state, reset, and the procedures Fill,
ClearSession, SendAck and ClearRecv. -/

namespace Sys2Proof.Machine

/-! ### The source buffer (20_memory.md R51) -/

/-- One canonical form: addresses strictly rising. An unlisted address reads as a free value, so no entry can equal
what it would read as unlisted (log 7). -/
abbrev Memory.wf (m : Memory) : Prop := m.Pairwise fun x y => x.1 < y.1

/-- The byte at an address; an address nothing has written reads as a free value (R51, log 7). -/
def Memory.read (m : Memory) (a : Nat) : Byte := (m.lookup a).getD (Config.srcUnwritten a)

/-- Write one byte, keeping the addresses rising. -/
def Memory.write (m : Memory) (a : Nat) (b : Byte) : Memory :=
  match m with
  | [] => [(a, b)]
  | (x, y) :: rest =>
    if a < x then (a, b) :: (x, y) :: rest
    else if a = x then (a, b) :: rest
    else (x, y) :: Memory.write rest a b

/-- `MemWrite(SRC, a, s)` (R12): write a byte string at `a` and the addresses after it. -/
def Memory.writeBytes (m : Memory) (a : Nat) : Bytes → Memory
  | [] => m
  | b :: bs => Memory.writeBytes (m.write a b) (a + 1) bs

/-- `MemRead(SRC, a, n)` (R12): the n bytes from `a` on. -/
def Memory.readBytes (m : Memory) (a n : Nat) : Bytes := (List.range n).map fun k => m.read (a + k)

/-! ### The packet view (20_memory.md R52) -/

/-- `off(i)` (R52). -/
def packetOff (g : Sender) (i : Nat) : Nat := i * g.maxpay.toNat

/-- `plen(i)` (R52). -/
def packetLen (g : Sender) (i : Nat) : Nat := min g.maxpay.toNat (g.srclen.toNat - packetOff g i)

/-- `payload(i)` (R52). -/
def packetPayload (g : Sender) (i : Nat) : Bytes := g.src.readBytes (packetOff g i) (packetLen g i)

/-- `kind(i)` (R52): the last packet is FinalData. -/
def packetKind (g : Sender) (i : Nat) : Kind := if i + 1 = g.numpkt.toNat then .finalData else .data

/-- `DataFrame(i)` (R52). -/
def dataFrame (p : Params) (g : Sender) (i : Nat) : Bytes :=
  encodeFrame p (BitVec.ofNat 32 i) (packetKind g i) (packetPayload g i)

/-- Every byte packet i is read from exists in SRC (R51). -/
def packetInSrc (p : Params) (g : Sender) (i : Nat) : Bool :=
  decide (packetLen g i = 0 ∨ packetOff g i + packetLen g i ≤ p.srcCap.toNat)

/-! ### Sequencing -/

/-- Go on with `f` after a result that is a next state; a stop stays. -/
def andThen (r : Result) (f : State → Result) : Result :=
  match r with
  | .next s => f s
  | .fault x => .fault x
  | .refused x => .refused x

/-! ### Streams (20_memory.md R56) -/

/-- `emit STX(f)` (R12). -/
def emitStx (f : Bytes) (s : State) : State := { s with stx := s.stx ++ [f] }

/-- `emit RTX(f)` (R12). -/
def emitRtx (f : Bytes) (s : State) : State := { s with rtx := s.rtx ++ [f] }

/-- `emit SINK(p)` and `emit SINK_CLOSE` (R12). -/
def emitSink (x : SinkItem) (s : State) : State := { s with sink := s.sink ++ [x] }

/-- `emit RSP(w)` (R12). -/
def emitRsp (w : Word) (s : State) : State := { s with rsp := s.rsp ++ [w] }

/-! ### Refusals, fatal errors, reset (60_exceptions.md, 70_reset_and_hazards.md) -/

/-- `refuse(cause)` (R220): ERR records the cause, nothing else changes. The RSP word of a refused RDREG is emitted by
the command itself (R102). -/
def refuse (c : RefuseCause) (s : State) : State := { s with err := errOfRefusal c }

/-- A command the decoder rejects (R79, R80): refused; a rejected RDREG still answers one RSP word, 0 (R102, R220). -/
def rejectCommand (r : Reject) (s : State) : State :=
  match r with
  | .illegalOpcode => refuse .illegalOpcode s
  | .reservedField o =>
    if o = .rdreg then emitRsp 0 (refuse .reservedField s) else refuse .reservedField s

/-- `fatal(SWE, c)` (R223): the sender's session enters ERROR and releases its timer; everything else keeps its
value as a record. -/
def fatalSnd (c : FatalCause) (s : State) : State := { s with snd := disarmTimer { s.snd with st := .error c } }

/-- `fatal(RDE, c)` (R223). -/
def fatalRcv (c : FatalCause) (s : State) : State := { s with rcv := { s.rcv with st := .error c, twcnt := 0 } }

/-- `ClearSession()` (R141), the sender's way back to IDLE from every state, ERROR among them (R224). WSIZE, RTO and
MAXPAY stay; the content of SRC becomes irrelevant (log 7). -/
def clearSession (s : State) : State :=
  { s with snd := disarmTimer { s.snd with st := .idle, base := 0, next := 0, numpkt := 0, srclen := 0, src := [] } }

/-- `ClearRecv()` (R171), the receiver's way back to IDLE from every state, ERROR among them (R224). TWDUR stays. -/
def clearRecv (s : State) : State :=
  { s with rcv := { s.rcv with st := .idle, expected := 0, lastkind := 0xFF, twcnt := 0 } }

/-- The reset state applied to every register (R240, R241). The streams and the words on the command port belong to
the host and stay; the parameters are constant. -/
def applyReset (s : State) : State :=
  { s with err := .clear, snd := .reset s.params, rcv := .reset s.params, csu := .reset }

/-- The reset input performed between commands (R241, log 5). -/
def resetInput (s : State) : State := { applyReset s with resetIn := false }

/-! ### Sending (42_sender.md) -/

/-- `emit STX(DataFrame(i))` (R52, R140, R150); a packet outside SRC stops the model (R51, log 8). -/
def sendData (i : Nat) (s : State) : Result :=
  if packetInSrc s.params s.snd i then .next (emitStx (dataFrame s.params s.snd i) s) else .fault .srcAddress

/-- `lim` of Fill (R140): min(BASE + WSIZE, NUMPKT), exact integers. -/
def fillLimit (g : Sender) : Nat := min (g.base.toNat + g.wsize.toNat) g.numpkt.toNat

/-- The start of one round of Fill's loop (R140): arm the timer when the window is empty. -/
def fillArm (s : State) : State := if s.snd.base = s.snd.next then { s with snd := armTimer s.snd } else s

/-- The end of one round of Fill's loop (R140): NEXT is the packet after the one sent. -/
def fillAdvance (s : State) : State := { s with snd := { s.snd with next := s.snd.next + 1 } }

/-- The rounds of Fill's loop (R140). -/
def fillLoop : Nat → State → Result
  | 0, s => .next s
  | k + 1, s => andThen (sendData (fillArm s).snd.next.toNat (fillArm s)) fun t => fillLoop k (fillAdvance t)

/-- `Fill()` (R140): one round for each packet from NEXT to lim - 1. -/
def fill (s : State) : Result := fillLoop (fillLimit s.snd - s.snd.next.toNat) s

/-- Emit the data frames i, i + 1, ..., i + k - 1 in this order (R150). -/
def resend : Nat → Nat → State → Result
  | 0, _, s => .next s
  | k + 1, i, s => andThen (sendData i s) (resend k (i + 1))

/-! ### Acknowledging (43_receiver.md) -/

/-- `SendAck()` (R170): the cumulative ACK of EXPECTED - 1 mod 2^32. -/
def sendAck (s : State) : State := emitRtx (ackFrame s.params (s.rcv.expected - 1)) s

end Sys2Proof.Machine
end

