-- ==== Sys2Proof/Machine/Checksum.lean ====
section
/-! DEFINITION. The checksum unit's commands (41_checksum.md section 2): the accumulator datapath and the two frame
commands. They can be issued in every state of the engines and touch no engine register (R60). -/

namespace Sys2Proof.Machine

/-- `CK_CLR` (R120). -/
def execCkClr (s : State) : Result := .next { s with csu := { s.csu with acc := 0, ovf := false } }

/-- `CK_ADD` (R121). -/
def execCkAdd (w : Half) (s : State) : Result := .next { s with csu := ckAddWord s.csu w }

/-- `CK_ADDB` (R122). -/
def execCkAddb (d : Bytes) (s : State) : Result := .next { s with csu := ckAddWords s.csu (words d) }

/-- `CK_FOLD` (R123). -/
def execCkFold (s : State) : Result := .next { s with csu := { s.csu with acc := fold s.csu.acc } }

/-- `CK_FIN` (R124). -/
def execCkFin (s : State) : Result :=
  .next { s with csu := { s.csu with acc := fold s.csu.acc, res := (~~~ fold s.csu.acc).setWidth 16 } }

/-- `CK_GEN` (R125): KIND and the CK field are not looked at. -/
def execCkGen (d : Bytes) (s : State) : Result :=
  .next <|
    if d.length ≠ frameBytes s.params then refuse .badLength s
    else if !lenLegal s.params d then refuse .badValue s
    else { s with csu := { s.csu with res := checksum d } }

/-- `CK_VER` (R126): any byte string gets a verdict. -/
def execCkVer (d : Bytes) (s : State) : Result := .next { s with csu := { s.csu with ok := frameValid s.params d } }

end Sys2Proof.Machine
end

