-- ==== Sys2Proof/Machine/Operands.lean ====
section
/-! DEFINITION. The register operand (30_encoding.md R72 REG form): the address map of 20_memory.md R54, the value each
register reads as, and the checks and effect of a register write (40_global.md R103). -/

namespace Sys2Proof.Machine

/-- The mapped registers (R54). -/
inductive Reg where
  | paramN | paramCap | err
  | wsize | rto | maxpay | sstate | base | next | numpkt | srclen | stctl | stcnt
  | twdur | rstate | expected | lastkind | twcnt
  | ckacc | ckres | ckstat
deriving DecidableEq, Repr

/-- The register numbers of R54. -/
def Reg.number : Reg → Byte
  | .paramN => 0x00
  | .paramCap => 0x01
  | .err => 0x02
  | .wsize => 0x10
  | .rto => 0x11
  | .maxpay => 0x12
  | .sstate => 0x13
  | .base => 0x14
  | .next => 0x15
  | .numpkt => 0x16
  | .srclen => 0x17
  | .stctl => 0x18
  | .stcnt => 0x19
  | .twdur => 0x20
  | .rstate => 0x21
  | .expected => 0x22
  | .lastkind => 0x23
  | .twcnt => 0x24
  | .ckacc => 0x30
  | .ckres => 0x31
  | .ckstat => 0x32

/-- Every mapped register, in the order of R54. -/
def Reg.all : List Reg :=
  [.paramN, .paramCap, .err]
    ++ [.wsize, .rto, .maxpay, .sstate, .base, .next, .numpkt, .srclen, .stctl, .stcnt]
    ++ [.twdur, .rstate, .expected, .lastkind, .twcnt] ++ [.ckacc, .ckres, .ckstat]

/-- The register of a number; none where the number is unmapped (R50, R54). -/
def Reg.ofNumber (r : Byte) : Option Reg := Reg.all.find? fun x => decide (x.number = r)

/-- The registers WRREG may write: RW of R54, and ERR, which it clears. The others are read-only. -/
def Reg.readOnly : Reg → Bool
  | .err | .wsize | .rto | .maxpay | .twdur | .ckacc => false
  | .paramN | .paramCap | .sstate | .base | .next | .numpkt | .srclen | .stctl | .stcnt => true
  | .rstate | .expected | .lastkind | .twcnt | .ckres | .ckstat => true

/-- `SSTATE.ST` (R23). -/
def SndState.code : SndState → Byte
  | .idle => 0
  | .loading => 1
  | .ready => 2
  | .run => 3
  | .done => 4
  | .error _ => 5

/-- `SSTATE.CAUSE` (R23): 0x00 in every state but ERROR. -/
def SndState.causeCode : SndState → Byte
  | .error c => c.code
  | .idle | .loading | .ready | .run | .done => 0

/-- `RSTATE.ST` (R31). -/
def RcvState.code : RcvState → Byte
  | .idle => 0
  | .receiving => 1
  | .finalAckSent => 2
  | .done => 3
  | .error _ => 4

/-- `RSTATE.CAUSE` (R31): 0x00 in every state but ERROR. -/
def RcvState.causeCode : RcvState → Byte
  | .error c => c.code
  | .idle | .receiving | .finalAckSent | .done => 0

/-- A session state register as a word: ST in bits 2:0, CAUSE in bits 15:8, every other bit 0 (R23, R31). -/
def stateWord (st cause : Byte) : Word := (0#16) ++ cause ++ st

/-- ERR as a word (R19). -/
def errWord (e : ErrReg) : Word := (if e.cmdErr then 0x80000000#32 else 0) ||| e.cause.setWidth 32

/-- CKSTAT as a word: CKOK in bit 0, CKOVF in bit 1 (R37). -/
def ckstatWord (c : Csu) : Word := (if c.ok then 1#32 else 0) ||| (if c.ovf then 2#32 else 0)

/-- The word a register reads as (R17 to R37). -/
def readReg (s : State) (r : Reg) : Word :=
  match r with
  | .paramN => s.params.n
  | .paramCap => s.params.srcCap
  | .err => errWord s.err
  | .wsize => s.snd.wsize
  | .rto => s.snd.rto
  | .maxpay => s.snd.maxpay
  | .sstate => stateWord s.snd.st.code s.snd.st.causeCode
  | .base => s.snd.base
  | .next => s.snd.next
  | .numpkt => s.snd.numpkt
  | .srclen => s.snd.srclen
  | .stctl => if s.snd.armed then 1 else 0
  | .stcnt => s.snd.stcnt
  | .twdur => s.rcv.twdur
  | .rstate => stateWord s.rcv.st.code s.rcv.st.causeCode
  | .expected => s.rcv.expected
  | .lastkind => s.rcv.lastkind.setWidth 32
  | .twcnt => s.rcv.twcnt
  | .ckacc => s.csu.acc
  | .ckres => s.csu.res.setWidth 32
  | .ckstat => ckstatWord s.csu

/-- The sender's configuration can be written: SSTATE is IDLE or DONE (R20 to R22). -/
def SndState.configOpen : SndState → Bool
  | .idle | .done => true
  | .loading | .ready | .run | .error _ => false

/-- The receiver's configuration can be written, and a session opened: RSTATE is IDLE or DONE (R30, R172). -/
def RcvState.configOpen : RcvState → Bool
  | .idle | .done => true
  | .receiving | .finalAckSent | .error _ => false

/-- The register may be written in this state: its write window is open (R20 to R22, R30, R35). -/
def writeWindow (s : State) (r : Reg) : Bool :=
  match r with
  | .wsize | .rto | .maxpay => s.snd.st.configOpen
  | .twdur => s.rcv.st.configOpen
  | .err | .ckacc => true
  | .paramN | .paramCap | .sstate | .base | .next | .numpkt | .srclen | .stctl | .stcnt => true
  | .rstate | .expected | .lastkind | .twcnt | .ckres | .ckstat => true

/-- The value is legal for the register (R20 to R22, R30, R103). -/
def writeLegal (s : State) (r : Reg) (v : Word) : Bool :=
  match r with
  | .wsize => decide (1 ≤ v.toNat ∧ v.toNat ≤ 0x7FFFFFFF)
  | .rto => decide (v ≠ 0)
  | .maxpay => decide (1 ≤ v.toNat ∧ v.toNat ≤ s.params.n.toNat)
  | .twdur => decide (v ≠ 0)
  | .err | .ckacc => true
  | .paramN | .paramCap | .sstate | .base | .next | .numpkt | .srclen | .stctl | .stcnt => true
  | .rstate | .expected | .lastkind | .twcnt | .ckres | .ckstat => true

/-- The effect of a register write that passed its checks; ERR is cleared whatever the value (R19), a read-only
register keeps its value. DEDUCED (log 15), safe: a write to TWDUR in DONE leaves TWCNT. -/
def writeReg (s : State) (r : Reg) (v : Word) : State :=
  match r with
  | .err => { s with err := .clear }
  | .wsize => { s with snd := { s.snd with wsize := v } }
  | .rto => { s with snd := { s.snd with rto := v } }
  | .maxpay => { s with snd := { s.snd with maxpay := v } }
  | .twdur => { s with rcv := { s.rcv with twdur := v } }
  | .ckacc => { s with csu := { s.csu with acc := v } }
  | .paramN | .paramCap | .sstate | .base | .next | .numpkt | .srclen | .stctl | .stcnt => s
  | .rstate | .expected | .lastkind | .twcnt | .ckres | .ckstat => s

end Sys2Proof.Machine
end

