-- ==== Sys2Proof/Machine/Global.lean ====
section
/-! DEFINITION. The global commands (40_global.md): NOP, RESET, RDREG, WRREG. -/

namespace Sys2Proof.Machine

/-- `NOP` (R100): nothing. -/
def execNop (s : State) : Result := .next s

/-- `RESET` (R101): the reset state, the streams kept. -/
def execReset (s : State) : Result := .next (applyReset s)

/-- `RDREG` (R102): one RSP word in every case, 0 when the number is unmapped. -/
def execRdreg (r : Byte) (s : State) : Result :=
  .next <| match Reg.ofNumber r with
    | none => emitRsp 0 (refuse .badRegister s)
    | some x => emitRsp (readReg s x) s

/-- `WRREG` (R103), its checks in the priority order of R221. -/
def execWrreg (r : Byte) (v : Word) (s : State) : Result :=
  .next <| match Reg.ofNumber r with
    | none => refuse .badRegister s
    | some x =>
      if x.readOnly then refuse .readOnly s
      else if !writeWindow s x then refuse .badState s
      else if !writeLegal s x v then refuse .badValue s
      else writeReg s x v

end Sys2Proof.Machine
end

