-- ==== Sys2Proof/Machine/Receiver.lean ====
section
/-! DEFINITION. The receiver delivery engine's commands (43_receiver.md). -/

namespace Sys2Proof.Machine

/-- RCV_OPEN once it is accepted (R172): a new session, and the Request frame on RTX. -/
def openSession (d : Bytes) (s : State) : State :=
  emitRtx (requestFrame s.params d)
    { s with rcv := { s.rcv with st := .receiving, expected := 0, lastkind := 0xFF, twcnt := 0 } }

/-- `RCV_OPEN` (R172). -/
def execRcvOpen (d : Bytes) (s : State) : Result :=
  .next <|
    if d.length > s.params.n.toNat then refuse .badLength s
    else if s.rcv.st.configOpen then openSession d s
    else refuse .badState s

/-- A frame the receiver may accept (R174): valid, its KIND Data or FinalData. -/
def dataValid (p : Params) (d : Bytes) : Bool :=
  frameValid p d && decide (kindField d = Kind.data.code ∨ kindField d = Kind.finalData.code)

/-- The accept of the expected frame (R174): deliver its payload, count it, acknowledge it; FinalData starts the
time-wait. DEDUCED (log 11), unsafe for a claim that counts the items of SINK: an empty payload is an item of no bytes. -/
def acceptFrame (d : Bytes) (s : State) : State :=
  let s1 := emitSink (.bytes (payload d)) s
  let s2 := sendAck { s1 with rcv := { s1.rcv with
    expected := s1.rcv.expected + 1, lastkind := (kindField d).setWidth 8 } }
  if kindField d = Kind.finalData.code then
    { s2 with rcv := { s2.rcv with st := .finalAckSent, twcnt := 0 } }
  else s2

/-- `RCV_RX` (R174). In RECEIVING a corrupt, unrecognised or out-of-order frame gets the duplicate ACK; in
FINAL_ACK_SENT every frame gets the final ACK again.

DESIGN CHOICE (log 16), unsafe: at EXPECTED = 0xFFFFFFFF the pseudocode of R174, with the wrap of R32 and D36, accepts a
frame of SEQ 0xFFFFFFFF, while R174's corner case says that SEQ = -1 never matches; the spec leaves the two unreconciled,
and the model follows the pseudocode. -/
def execRcvRx (d : Bytes) (s : State) : Result :=
  .next <| match s.rcv.st with
    | .receiving =>
      if !dataValid s.params d then sendAck s
      else if seqField d ≠ s.rcv.expected then sendAck s
      else acceptFrame d s
    | .finalAckSent => sendAck s
    | .idle | .done | .error _ => s

/-- `RCV_RXERR` (R176): nothing, in every state. -/
def execRcvRxerr (s : State) : Result := .next s

/-- One counted tick of the time-wait (R177): on the TWDUR-th one the session is done and the sink is closed. -/
def countTimeWait (s : State) : State :=
  let c := s.rcv.twcnt + 1
  if c = s.rcv.twdur then emitSink .close { s with rcv := { s.rcv with twcnt := c, st := .done } }
  else { s with rcv := { s.rcv with twcnt := c } }

/-- `RCV_TICK` (R177). -/
def execRcvTick (s : State) : Result :=
  .next (if s.rcv.st = .finalAckSent then countTimeWait s else s)

/-- `RCV_TXERR` (R178). -/
def execRcvTxerr (s : State) : Result :=
  .next <| match s.rcv.st with
    | .receiving | .finalAckSent => fatalRcv .txError s
    | .idle | .done | .error _ => refuse .badState s

/-- `RCV_ABORT` (R179). -/
def execRcvAbort (s : State) : Result := .next (clearRecv s)

end Sys2Proof.Machine
end

