-- ==== Sys2Proof/Machine/Sender.lean ====
section
/-! DEFINITION. The sender window engine's commands (42_sender.md). -/

namespace Sys2Proof.Machine

/-- SND_SRC once it is accepted (R142): the bytes stand from `s0` on, SRCLEN counts them, the state is LOADING. -/
def loadSource (s0 : Nat) (d : Bytes) (s : State) : State :=
  { s with snd := { s.snd with
      src := s.snd.src.writeBytes s0 d, srclen := BitVec.ofNat 32 (s0 + d.length), st := .loading } }

/-- `SND_SRC` (R142). From DONE a new session starts; a refusal writes no byte. -/
def execSndSrc (d : Bytes) (s : State) : Result :=
  .next <| match s.snd.st with
    | .ready | .run | .error _ => refuse .badState s
    | .idle | .loading =>
      if s.snd.srclen.toNat + d.length > s.params.srcCap.toNat then refuse .capacity s
      else loadSource s.snd.srclen.toNat d s
    | .done =>
      if d.length > s.params.srcCap.toNat then refuse .capacity s
      else loadSource 0 d (clearSession s)

/-- The number of packets the source makes: ceil(SRCLEN / MAXPAY) (R143). -/
def packetCount (g : Sender) : Nat := (g.srclen.toNat + g.maxpay.toNat - 1) / g.maxpay.toNat

/-- SND_EOF once it is accepted (R143): split the source, or fail on an empty one. -/
def prepareSession (s : State) : State :=
  if s.snd.srclen = 0 then fatalSnd .emptySource s
  else { s with snd := { s.snd with numpkt := BitVec.ofNat 32 (packetCount s.snd), base := 0, next := 0, st := .ready } }

/-- `SND_EOF` (R143). -/
def execSndEof (s : State) : Result :=
  .next <| match s.snd.st with
    | .idle | .loading => prepareSession s
    | .done => prepareSession (clearSession s)
    | .ready | .run | .error _ => refuse .badState s

/-- `SND_START` (R144). -/
def execSndStart (s : State) : Result :=
  if s.snd.st = .ready then fill { s with snd := { s.snd with base := 0, next := 0, st := .run } }
  else .next (refuse .badState s)

/-- BASE advanced by an accepted Ack(n) to `b` = n + 1, with the timer disarmed on a drain and rearmed otherwise
(R145). -/
def advanceBase (b : Word) (g : Sender) : Sender :=
  if b = g.next then disarmTimer { g with base := b } else { g with base := b, stcnt := 0 }

/-- The sender after an accepted Ack(n), `b` = n + 1 (R145): the session is done, or the window is filled again. -/
def acceptAck (b : Word) (s : State) : Result :=
  let g := advanceBase b s.snd
  if g.base = g.numpkt then .next { s with snd := { g with st := .done } } else fill { s with snd := g }

/-- The acknowledgment number of a frame the sender accepts as new (R145): a valid Ack(n) with BASE <= n < NEXT, SEQ
read as two's complement. -/
def newAck (p : Params) (g : Sender) (d : Bytes) : Bool :=
  frameValid p d && decide (kindField d = Kind.ack.code)
    && decide ((g.base.toNat : Int) ≤ (seqField d).toInt ∧ (seqField d).toInt < (g.next.toNat : Int))

/-- `SND_RX` (R145). Every other frame, and every frame outside RUN, is ignored. -/
def execSndRx (d : Bytes) (s : State) : Result :=
  if s.snd.st = .run ∧ newAck s.params s.snd d then acceptAck (seqField d + 1) s else .next s

/-- `SND_RXERR` (R146): nothing, in every state. -/
def execSndRxerr (s : State) : Result := .next s

/-- One counted tick (R150): on the RTO-th one, rearm and send the window again. -/
def countTick (s : State) : Result :=
  let c := s.snd.stcnt + 1
  if c = s.snd.rto then
    resend (s.snd.next.toNat - s.snd.base.toNat) s.snd.base.toNat { s with snd := { s.snd with stcnt := 0 } }
  else .next { s with snd := { s.snd with stcnt := c } }

/-- `SND_TICK` (R150). -/
def execSndTick (s : State) : Result :=
  if s.snd.st = .run ∧ s.snd.armed then countTick s else .next s

/-- `SND_TXERR` (R151). -/
def execSndTxerr (s : State) : Result :=
  .next (if s.snd.st = .run then fatalSnd .txError s else refuse .badState s)

/-- `SND_ABORT` (R152). -/
def execSndAbort (s : State) : Result := .next (clearSession s)

end Sys2Proof.Machine
end

