-- ==== Sys2Proof/Machine/Dispatch.lean ====
section
/-! DEFINITION. The meaning of every command, one arm each (30_encoding.md R77). -/

namespace Sys2Proof.Machine

def exec (i : Instr) (s : State) : Host.Outcome State Fault Refusal :=
  match i with
  -- 40_global.md
  | .nop => Sys2Proof.Machine.execNop s
  | .reset => Sys2Proof.Machine.execReset s
  | .rdreg r => Sys2Proof.Machine.execRdreg r s
  | .wrreg r v => Sys2Proof.Machine.execWrreg r v s
  -- 41_checksum.md
  | .ckClr => Sys2Proof.Machine.execCkClr s
  | .ckAdd w => Sys2Proof.Machine.execCkAdd w s
  | .ckAddb d => Sys2Proof.Machine.execCkAddb d s
  | .ckFold => Sys2Proof.Machine.execCkFold s
  | .ckFin => Sys2Proof.Machine.execCkFin s
  | .ckGen d => Sys2Proof.Machine.execCkGen d s
  | .ckVer d => Sys2Proof.Machine.execCkVer d s
  -- 42_sender.md
  | .sndSrc d => Sys2Proof.Machine.execSndSrc d s
  | .sndEof => Sys2Proof.Machine.execSndEof s
  | .sndStart => Sys2Proof.Machine.execSndStart s
  | .sndRx d => Sys2Proof.Machine.execSndRx d s
  | .sndRxerr => Sys2Proof.Machine.execSndRxerr s
  | .sndTick => Sys2Proof.Machine.execSndTick s
  | .sndTxerr => Sys2Proof.Machine.execSndTxerr s
  | .sndAbort => Sys2Proof.Machine.execSndAbort s
  -- 43_receiver.md
  | .rcvOpen d => Sys2Proof.Machine.execRcvOpen d s
  | .rcvRx d => Sys2Proof.Machine.execRcvRx d s
  | .rcvRxerr => Sys2Proof.Machine.execRcvRxerr s
  | .rcvTick => Sys2Proof.Machine.execRcvTick s
  | .rcvTxerr => Sys2Proof.Machine.execRcvTxerr s
  | .rcvAbort => Sys2Proof.Machine.execRcvAbort s

end Sys2Proof.Machine
end

