-- ==== Sys2Proof/Machine/Fetch.lean ====
section
/-! DEFINITION. What the RDB takes next: the reset input, or the next command of the command port (30_encoding.md R70,
R75, 70_reset_and_hazards.md R241). -/

namespace Sys2Proof.Machine

/-- What the RDB does next. -/
inductive Fetched where
  /-- the reset input is asserted: reset before the next command (R241) -/
  | resetInput
  /-- no command has wholly arrived: wait, keeping all state (R239, log 3) -/
  | wait
  /-- perform this command; these words stay on the port -/
  | instr (i : Instr) (rest : List Word)
  /-- refuse this command; these words stay on the port -/
  | rejected (r : Reject) (rest : List Word)
deriving DecidableEq, Repr

/-- The next thing to do in a state (R59, R70, R241). -/
def fetch (s : State) : Fetched :=
  if s.resetIn then .resetInput
  else
    match decode s.port with
    | .incomplete => .wait
    | .instr i rest => .instr i rest
    | .rejected r rest => .rejected r rest

/-- The state with a command's words taken off the port. -/
def takeWords (rest : List Word) (s : State) : State := { s with port := rest }

/-- The table word's words at the front of the port, and no reset pending, so that the next step performs exactly
that command (log 2, log 4). -/
def placeWords (ws : List Word) (s : State) : State := { s with port := ws ++ s.port, resetIn := false }

end Sys2Proof.Machine
end

