-- ==== Sys2Proof/Machine/Step.lean ====
section
/-! DEFINITION. One step of the RDB: one command of the command port, whole and atomic (00_scope.md R5, 20_memory.md
R58, R59), or the reset input between commands (R241), or waiting for a command (R239). -/

namespace Sys2Proof.Machine

/-- One step (R59, R70, R241). -/
def step (s : State) : Host.Outcome State Fault Refusal :=
  match fetch s with
  | .resetInput => .next (resetInput s)
  | .wait => .next s
  | .instr i rest => exec i (takeWords rest s)
  | .rejected r rest => .next (rejectCommand r (takeWords rest s))

/-- `s` with the command of the table's bits `w` placed where the step takes its next command (log 2). -/
def State.withFetchWord (s : State) (nbits w : Nat) : State := placeWords (tableWords nbits w) s

end Sys2Proof.Machine
end

