-- ==== Sys2Proof/Safety.lean ====
section
/-! DEFINITION. What counts as a safe state and a run of the RDB: the invariants of 10_state.md (R38, R39 and the
ranges its register rules give), and the states that the host's choices can reach (60_exceptions.md R231). -/

namespace Sys2Proof.Machine

/-- ERR records a refusal exactly when CMDERR is set, and its cause is one of R221 (R19, R221). -/
abbrev ErrReg.Inv (e : ErrReg) : Prop := (e.cmdErr = true ↔ e.cause ≠ 0) ∧ e.cause.toNat ≤ 8

/-- The sender's configuration is legal (R20 to R22). -/
abbrev Sender.ConfigInv (p : Params) (g : Sender) : Prop :=
  (1 ≤ g.wsize.toNat ∧ g.wsize.toNat ≤ 0x7FFFFFFF) ∧ 1 ≤ g.rto.toNat ∧ 1 ≤ g.maxpay.toNat
    ∧ g.maxpay.toNat ≤ p.n.toNat

/-- The window (R38 (a)). -/
abbrev Sender.WindowInv (g : Sender) : Prop :=
  g.base.toNat ≤ g.next.toNat ∧ g.next.toNat ≤ g.numpkt.toNat ∧ g.next.toNat - g.base.toNat ≤ g.wsize.toNat

/-- The retransmission timer (R38 (b), R29). -/
abbrev Sender.TimerInv (g : Sender) : Prop :=
  (g.armed = true ↔ g.st = .run ∧ g.base.toNat < g.next.toNat)
    ∧ (g.armed = true → g.stcnt.toNat < g.rto.toNat) ∧ (g.armed = false → g.stcnt = 0)

/-- No session is prepared: BASE, NEXT and NUMPKT are 0 (R26, R141). -/
abbrev Sender.Unprepared (g : Sender) : Prop := g.base = 0 ∧ g.next = 0 ∧ g.numpkt = 0

/-- A session is prepared: NUMPKT counts the packets of a non-empty source (R143). -/
abbrev Sender.Prepared (g : Sender) : Prop := 1 ≤ g.srclen.toNat ∧ g.numpkt.toNat = packetCount g

/-- What each sender state says of the session registers (R24 to R27, R38 (d), R143). -/
def Sender.SessionInv (g : Sender) : Prop :=
  match g.st with
  | .idle => g.Unprepared ∧ g.srclen = 0
  | .loading => g.Unprepared
  | .ready => g.base = 0 ∧ g.next = 0 ∧ g.Prepared
  | .run => g.base.toNat < g.next.toNat ∧ g.Prepared ∧ g.next.toNat = fillLimit g
  | .done => g.base = g.numpkt ∧ g.next = g.numpkt ∧ 1 ≤ g.numpkt.toNat
  | .error .emptySource => g.Unprepared ∧ g.srclen = 0
  | .error .txError => g.base.toNat < g.next.toNat ∧ g.Prepared

/-- The source buffer (R26, R27, R51): it holds exactly the bytes at addresses 0 to SRCLEN - 1, in canonical form. -/
abbrev Sender.SourceInv (p : Params) (g : Sender) : Prop :=
  g.srclen.toNat ≤ p.srcCap.toNat ∧ g.numpkt.toNat ≤ g.srclen.toNat
    ∧ g.src.map Prod.fst = List.range g.srclen.toNat

/-- What each receiver state says of the receiver's registers (R30 to R34, R39 (c)). -/
def Receiver.Inv (r : Receiver) : Prop :=
  1 ≤ r.twdur.toNat ∧
  match r.st with
  | .idle => r.expected = 0 ∧ r.lastkind = 0xFF ∧ r.twcnt = 0
  | .receiving => (r.lastkind = 0 ∨ r.lastkind = 0xFF) ∧ r.twcnt = 0
  | .finalAckSent => r.lastkind = 1 ∧ r.twcnt.toNat < r.twdur.toNat
  | .done => r.lastkind = 1
  | .error .txError => (r.lastkind = 0 ∨ r.lastkind = 1 ∨ r.lastkind = 0xFF) ∧ r.twcnt = 0
  | .error .emptySource => False

/-- The invariant of the RDB. -/
structure State.Inv (s : State) : Prop where
  /-- the parameters are legal (R6 to R8) -/
  params : s.params.Legal
  /-- ERR (R19, R221) -/
  err : s.err.Inv
  /-- the sender's configuration (R20 to R22) -/
  config : s.snd.ConfigInv s.params
  /-- the window (R38) -/
  window : s.snd.WindowInv
  /-- the retransmission timer (R38, R29) -/
  timer : s.snd.TimerInv
  /-- the sender's session (R24 to R27, R38) -/
  session : s.snd.SessionInv
  /-- the source buffer (R51) -/
  source : s.snd.SourceInv s.params
  /-- the receiver (R30 to R34, R39) -/
  receiver : s.rcv.Inv

/-- The states that steps and the host's choices reach from power-on (R231, R241): the host issues any words on the
command port and asserts the reset input at any time. -/
inductive Reachable : State → Prop where
  /-- power-on, with any legal parameters (R6 to R8, R240) -/
  | powerOn (p : Params) (h : p.Legal) : Reachable (State.resetWith p)
  /-- the RDB takes a step -/
  | stepped {s t : State} (h : Reachable s) (hs : step s = .next t) : Reachable t
  /-- the host issues words on the command port (R70) -/
  | issued {s : State} (h : Reachable s) (ws : List Word) : Reachable { s with port := s.port ++ ws }
  /-- the host asserts the reset input (R241) -/
  | resetAsserted {s : State} (h : Reachable s) : Reachable { s with resetIn := true }

/-- A state no step of the RDB can stop in, now or later: the safe states are those of the invariant. -/
def State.Safe (s : State) : Prop := s.Inv ∧ ∃ t, step s = .next t

end Sys2Proof.Machine
end

