-- ==== Sys2Proof/Certificates/Slice0/Obligations.lean ====
section
/-! DEFINITION. The statements for the provers, one `def Obligations.<Name> : Prop` each, and the vocabulary they are
written in (namespace `Sys2Proof.Spec`): the spec's formulas over natural numbers, its tables and its pseudocode,
written apart from the model's own definitions. -/

namespace Sys2Proof.Spec

open Sys2Proof.Machine

/-! ### Numbers in byte strings (00_scope.md R10, R11) -/

/-- `be16(s, i)` as a number (R11). -/
def num16 (s : Bytes) (i : Nat) : Nat := (s.getD i 0).toNat * 256 + (s.getD (i + 1) 0).toNat

/-- `be32(s, i)` as a number (R11). -/
def num32 (s : Bytes) (i : Nat) : Nat :=
  (s.getD i 0).toNat * 2 ^ 24 + (s.getD (i + 1) 0).toNat * 2 ^ 16 + (s.getD (i + 2) 0).toNat * 2 ^ 8
    + (s.getD (i + 3) 0).toNat

/-- `s32(v)` (R10). -/
def s32 (v : Nat) : Int := if 2 ^ 31 ≤ v then (v : Int) - 2 ^ 32 else v

/-! ### The checksum over the exact integers (41_checksum.md R104, R106) -/

/-- `Pad(s)` (R104). -/
def pad (s : Bytes) : Bytes := if s.length % 2 = 1 then s ++ [0] else s

/-- The exact integer sum of `Words(s)` (R104). -/
def exactSum (s : Bytes) : Nat := ((List.range ((pad s).length / 2)).map fun k => num16 (pad s) (2 * k)).sum

/-- `Fold(a)` by R106: 0 only for 0, else a mod 0xFFFF with 0xFFFF in place of 0. -/
def foldNum (a : Nat) : Nat := if a = 0 then 0 else (a - 1) % 0xFFFF + 1

/-- `CkOf(s)` as a number (R104). -/
def ckNum (s : Bytes) : Nat := 0xFFFF - foldNum (exactSum s % 2 ^ 32)

/-- LEN of a frame (R40). -/
def lenNum (f : Bytes) : Int := s32 (num32 f 8)

/-- SEQ of a frame, two's complement (R40). -/
def seqNum (f : Bytes) : Int := s32 (num32 f 0)

/-- KIND of a frame (R40). -/
def kindNum (f : Bytes) : Nat := num32 f 4

/-- `Cover(f)` (R104). -/
def coverOf (f : Bytes) : Bytes := f.take 12 ++ (f.drop 12).take (lenNum f).toNat

/-- `FrameValid(f)` (R105, R107), on numbers. -/
def FrameValid (p : Params) (f : Bytes) : Prop :=
  f.length = p.n.toNat + 14 ∧ (0 ≤ lenNum f ∧ lenNum f ≤ p.n.toNat) ∧ kindNum f ≤ 3
    ∧ num16 f (12 + p.n.toNat) = ckNum (coverOf f)

/-- PAYLOAD of a frame (R108). -/
def payloadOf (f : Bytes) : Bytes := (f.drop 12).take (lenNum f).toNat

/-! ### Registers by number (20_memory.md R54) -/

/-- `SSTATE` as a number (R23, R222). -/
def sstateNum : SndState → Nat
  | .idle => 0
  | .loading => 1
  | .ready => 2
  | .run => 3
  | .done => 4
  | .error .txError => 0x105
  | .error .emptySource => 0x205

/-- `RSTATE` as a number (R31, R222). -/
def rstateNum : RcvState → Nat
  | .idle => 0
  | .receiving => 1
  | .finalAckSent => 2
  | .done => 3
  | .error .txError => 0x104
  | .error .emptySource => 0x204

/-- The value of each mapped register number (R17 to R37, R54); none where the number is unmapped. -/
def registerValue (s : State) (r : Byte) : Option Word :=
  match r.toNat with
  | 0x00 => some s.params.n
  | 0x01 => some s.params.srcCap
  | 0x02 => some (BitVec.ofNat 32 ((if s.err.cmdErr then 2 ^ 31 else 0) + s.err.cause.toNat))
  | 0x10 => some s.snd.wsize
  | 0x11 => some s.snd.rto
  | 0x12 => some s.snd.maxpay
  | 0x13 => some (BitVec.ofNat 32 (sstateNum s.snd.st))
  | 0x14 => some s.snd.base
  | 0x15 => some s.snd.next
  | 0x16 => some s.snd.numpkt
  | 0x17 => some s.snd.srclen
  | 0x18 => some (if s.snd.armed then 1 else 0)
  | 0x19 => some s.snd.stcnt
  | 0x20 => some s.rcv.twdur
  | 0x21 => some (BitVec.ofNat 32 (rstateNum s.rcv.st))
  | 0x22 => some s.rcv.expected
  | 0x23 => some (BitVec.ofNat 32 s.rcv.lastkind.toNat)
  | 0x24 => some s.rcv.twcnt
  | 0x30 => some s.csu.acc
  | 0x31 => some (BitVec.ofNat 32 s.csu.res.toNat)
  | 0x32 => some (BitVec.ofNat 32 ((if s.csu.ok then 1 else 0) + (if s.csu.ovf then 2 else 0)))
  | _ => none

/-- The reset value of every register (R240). -/
def resetTable (p : Params) : List (Byte × Word) :=
  [(0x00, p.n), (0x01, p.srcCap), (0x02, 0)]
    ++ [(0x10, 1), (0x11, p.rtoReset), (0x12, p.n), (0x13, 0), (0x14, 0), (0x15, 0), (0x16, 0), (0x17, 0), (0x18, 0), (0x19, 0)]
    ++ [(0x20, p.twdurReset), (0x21, 0), (0x22, 0), (0x23, 0xFF), (0x24, 0)] ++ [(0x30, 0), (0x31, 0), (0x32, 0)]

/-- ERR after a refusal with a cause code (R220). -/
def withErr (c : Byte) (s : State) : State := { s with err := { cmdErr := true, cause := c } }

/-- The read-only register numbers (R54). -/
def readOnlyNumbers : List Byte :=
  [0x00, 0x01, 0x13, 0x14, 0x15, 0x16, 0x17, 0x18, 0x19, 0x21, 0x22, 0x23, 0x24, 0x31, 0x32]

/-- The writable register numbers (R54), ERR among them. -/
def writableNumbers : List Byte := [0x02, 0x10, 0x11, 0x12, 0x20, 0x30]

/-- SSTATE.ST is IDLE or DONE. -/
def sndOpen (s : State) : Prop := s.snd.st = .idle ∨ s.snd.st = .done

/-- RSTATE.ST is IDLE or DONE. -/
def rcvOpen (s : State) : Prop := s.rcv.st = .idle ∨ s.rcv.st = .done

/-- The causes of R221 that apply to a command in a state, lowest code first (the first two are the decoder's). -/
noncomputable def refusalCauses (i : Instr) (s : State) : List Byte :=
  open Classical in
  let when (c : Prop) (code : Byte) : List Byte := if c then [code] else []
  match i with
  | .rdreg r => when (r ∉ readOnlyNumbers ∧ r ∉ writableNumbers) 4
  | .wrreg r v =>
    when (r ∉ readOnlyNumbers ∧ r ∉ writableNumbers) 4 ++ when (r ∈ readOnlyNumbers) 5
      ++ when ((r = 0x10 ∨ r = 0x11 ∨ r = 0x12) ∧ ¬ sndOpen s ∨ r = 0x20 ∧ ¬ rcvOpen s) 6
      ++ when (r = 0x10 ∧ ¬ (1 ≤ v.toNat ∧ v.toNat ≤ 0x7FFFFFFF) ∨ (r = 0x11 ∨ r = 0x20) ∧ v.toNat = 0
          ∨ r = 0x12 ∧ ¬ (1 ≤ v.toNat ∧ v.toNat ≤ s.params.n.toNat)) 7
  | .ckGen d =>
    when (d.length ≠ s.params.n.toNat + 14) 3 ++ when (¬ (0 ≤ lenNum d ∧ lenNum d ≤ s.params.n.toNat)) 7
  | .sndSrc d =>
    when (s.snd.st ≠ .idle ∧ s.snd.st ≠ .loading ∧ s.snd.st ≠ .done) 6
      ++ when ((if s.snd.st = .done then 0 else s.snd.srclen.toNat) + d.length > s.params.srcCap.toNat) 8
  | .sndEof => when (s.snd.st ≠ .idle ∧ s.snd.st ≠ .loading ∧ s.snd.st ≠ .done) 6
  | .sndStart => when (s.snd.st ≠ .ready) 6
  | .sndTxerr => when (s.snd.st ≠ .run) 6
  | .rcvOpen d => when (d.length > s.params.n.toNat) 3 ++ when (¬ rcvOpen s) 6
  | .rcvTxerr => when (s.rcv.st ≠ .receiving ∧ s.rcv.st ≠ .finalAckSent) 6
  | .nop | .reset | .ckClr | .ckAdd _ | .ckAddb _ | .ckFold | .ckFin | .ckVer _ => []
  | .sndRx _ | .sndRxerr | .sndTick | .sndAbort | .rcvRx _ | .rcvRxerr | .rcvTick | .rcvAbort => []

/-! ### Frames, windows and runs -/

/-- The data frames i with a ≤ i < b, in increasing order (R52). -/
def framesFrom (s : State) (a b : Nat) : List Bytes :=
  (List.range (b - a)).map fun k => dataFrame s.params s.snd (a + k)

/-- The source bytes of a sender, addresses 0 to SRCLEN - 1 (R51). -/
def sourceBytes (g : Sender) : Bytes := (List.range g.srclen.toNat).map g.src.read

/-- Perform commands one after another (R59), each by its meaning. -/
def perform : List Instr → State → Result
  | [], s => .next s
  | i :: is, s => andThen (exec i s) (perform is)

/-- The unit of a command: OPC[7:6] (R71): 0 global, 1 CSU, 2 SWE, 3 RDE. -/
def unitOf (i : Instr) : Nat := i.opc.code.toNat / 64

end Sys2Proof.Spec

open Sys2Proof Sys2Proof.Machine Sys2Proof.Spec

/-! ### Encoding and the command port -/

/-- R70 to R74: the decoder gives back every well-formed command from its words, whatever follows them. -/
def Obligations.DecodeOfEncode : Prop :=
  ∀ (i : Instr) (rest : List Word), i.wellFormed = true → decode (encode i ++ rest) = .instr i rest

/-- R73, R75, R78: what the decoder accepts is a well-formed command whose words are its encoding, but for the bytes
of the last data word beyond the byte count. -/
def Obligations.AcceptedWordsAreTheEncoding : Prop :=
  ∀ (ws rest : List Word) (i : Instr), decode ws = .instr i rest →
    i.wellFormed = true ∧ ∃ used : List Word, ws = used ++ rest ∧ used.length = (encode i).length
      ∧ used.head? = (encode i).head?
      ∧ (∀ r v, i = .wrreg r v → used = encode i)
      ∧ ∀ d, (i = .ckAddb d ∨ i = .ckGen d ∨ i = .ckVer d ∨ i = .sndSrc d ∨ i = .sndRx d ∨ i = .rcvOpen d ∨ i = .rcvRx d) →
          (used.tail.flatMap wordBytes).take d.length = d

/-- R77, R79: the illegal opcodes are exactly the ranges the spec lists, and a word with one is rejected alone. -/
def Obligations.IllegalOpcodesAreRejected : Prop :=
  ∀ (w : Word) (rest : List Word),
    decode (w :: rest) = .rejected .illegalOpcode rest ↔
      (0x04 ≤ w.toNat / 2 ^ 24 ∧ w.toNat / 2 ^ 24 ≤ 0x3F) ∨ (0x47 ≤ w.toNat / 2 ^ 24 ∧ w.toNat / 2 ^ 24 ≤ 0x7F)
        ∨ (0x88 ≤ w.toNat / 2 ^ 24 ∧ w.toNat / 2 ^ 24 ≤ 0xBF) ∨ 0xC6 ≤ w.toNat / 2 ^ 24

/-- R75, R80: a set reserved bit rejects the command, its data phase consumed. -/
def Obligations.ReservedFieldsAreRejected : Prop :=
  ∀ (o : Opc) (w : Word) (ds rest : List Word), w.toNat / 2 ^ 24 = o.code.toNat →
    ds.length = o.dataWords (immField w) →
    (w.toNat / 2 ^ 16 % 2 ^ 8 ≠ 0 ∨ (o.form = .none ∧ w.toNat % 2 ^ 16 ≠ 0)
      ∨ (o.form = .reg ∧ w.toNat / 2 ^ 8 % 2 ^ 8 ≠ 0)) →
    decode (w :: (ds ++ rest)) = .rejected (.reservedField o) rest

/-- R71 to R73: command words written out bit by bit, one or more of each unit, decode to what they stand for. -/
def Obligations.WordsDecodeToTheirCommands : Prop :=
  decode [0x00000000] = .instr .nop [] ∧ decode [0x02000013] = .instr (.rdreg 0x13) []
    ∧ decode [0x03000010, 0x00000008] = .instr (.wrreg 0x10 8) []
    ∧ decode [0x4100FFFF] = .instr (.ckAdd 0xFFFF) []
    ∧ decode [0x42000003, 0x484941FF] = .instr (.ckAddb [0x48, 0x49, 0x41]) []
    ∧ decode [0x80000005, 0x48454C4C, 0x4F000000] = .instr (.sndSrc [0x48, 0x45, 0x4C, 0x4C, 0x4F]) []
    ∧ decode [0x85000000] = .instr .sndTick []
    ∧ decode [0xC0000001, 0x67000000] = .instr (.rcvOpen [0x67]) [] ∧ decode [0xC3000000] = .instr .rcvTick []

/-- R59, R70: a step performs the command its words encode: the words leave the port, and the state is that of its
meaning. That the port is a list of words in State is the model's choice (log 2). -/
def Obligations.StepPerformsTheDecodedCommand : Prop :=
  ∀ (s : State) (i : Instr) (rest : List Word), s.resetIn = false → decode s.port = .instr i rest →
    step s = exec i { s with port := rest }

/-- The model's choice (log 3), from R5, R70 and R239: while no command has wholly arrived the machine keeps all its
state. -/
def Obligations.IncompleteCommandsWait : Prop :=
  ∀ (s : State), s.resetIn = false → (s.port = [] ∨ ∃ w rest, s.port = w :: rest ∧ s.port.length < commandLength w) →
    step s = .next s

/-- R220, R221 (ILLEGAL_OPCODE): the word alone is consumed and only ERR changes. -/
def Obligations.IllegalOpcodeStepSetsErrOnly : Prop :=
  ∀ (s : State) (w : Word) (rest : List Word), s.resetIn = false → s.port = w :: rest →
    ((0x04 ≤ w.toNat / 2 ^ 24 ∧ w.toNat / 2 ^ 24 ≤ 0x3F) ∨ (0x47 ≤ w.toNat / 2 ^ 24 ∧ w.toNat / 2 ^ 24 ≤ 0x7F)
      ∨ (0x88 ≤ w.toNat / 2 ^ 24 ∧ w.toNat / 2 ^ 24 ≤ 0xBF) ∨ 0xC6 ≤ w.toNat / 2 ^ 24) →
    step s = .next (withErr 0x01 { s with port := rest })

/-- R80, R75, R102, R220 (RESERVED_FIELD): the data phase is consumed, only ERR changes, and RDREG answers 0. -/
def Obligations.ReservedFieldStepSetsErrOnly : Prop :=
  ∀ (s : State) (o : Opc) (w : Word) (ds rest : List Word), s.resetIn = false → s.port = w :: (ds ++ rest) →
    w.toNat / 2 ^ 24 = o.code.toNat → ds.length = o.dataWords (immField w) →
    (w.toNat / 2 ^ 16 % 2 ^ 8 ≠ 0 ∨ (o.form = .none ∧ w.toNat % 2 ^ 16 ≠ 0)
      ∨ (o.form = .reg ∧ w.toNat / 2 ^ 8 % 2 ^ 8 ≠ 0)) →
    step s = .next (withErr 0x02
      { s with port := rest, rsp := if o = .rdreg then s.rsp ++ [0] else s.rsp })

/-! ### Reset -/

/-- R240: the reset values of every register, for every machine, and of the machine of the host's interface, whose
parameters are opaque legal values by the model's choice (log 1). -/
def Obligations.PowerOnRegistersHaveResetValues : Prop :=
  (∀ p : Params, ∀ x ∈ resetTable p, registerValue (State.resetWith p) x.1 = some x.2)
    ∧ (∀ x ∈ resetTable Config.params, registerValue State.reset x.1 = some x.2) ∧ Config.params.Legal

/-- R101, R240: RESET puts every register at its reset value and keeps the streams, in every state. -/
def Obligations.ResetCommandRestoresEveryRegister : Prop :=
  ∀ s : State, ∃ t, exec .reset s = .next t ∧ (∀ x ∈ resetTable s.params, registerValue t x.1 = some x.2)
    ∧ t.params = s.params ∧ t.stx = s.stx ∧ t.rtx = s.rtx ∧ t.sink = s.sink ∧ t.rsp = s.rsp
    ∧ t.port = s.port ∧ t.resetIn = s.resetIn

/-- R241: the reset input has the effect of the RESET command, between commands. That the input is a pending flag
which one step clears, and that the words on the port stay, is the model's choice (log 5), not R241. -/
def Obligations.ResetInputActsAsResetCommand : Prop :=
  ∀ s : State, s.resetIn = true → ∃ t, exec .reset s = .next t ∧ step s = .next { t with resetIn := false }

/-! ### Global commands -/

/-- R100, R146, R176: NOP, SND_RXERR and RCV_RXERR change nothing, in every state. -/
def Obligations.NopAndReceiveErrorsChangeNothing : Prop :=
  ∀ s : State, exec .nop s = .next s ∧ exec .sndRxerr s = .next s ∧ exec .rcvRxerr s = .next s

/-- R102: RDREG emits exactly one RSP word: the register's value, or 0 with BAD_REGISTER for an unmapped number. -/
def Obligations.RdregAnswersOneWord : Prop :=
  ∀ (s : State) (r : Byte), exec (.rdreg r) s = .next
    (match registerValue s r with
     | some v => { s with rsp := s.rsp ++ [v] }
     | none => withErr 0x04 { s with rsp := s.rsp ++ [0] })

/-- R103: WRREG when it is not refused: the register takes the value, ERR is cleared whatever the value, and nothing
else changes. That in DONE a write to TWDUR leaves TWCNT, although R34 and R177 give TWCNT = TWDUR there, is the model's
reading, DEDUCED (log 15), not R103. -/
def Obligations.WrregWritesTheRegister : Prop :=
  ∀ (s : State) (v : Word),
    exec (.wrreg 0x02 v) s = .next { s with err := { cmdErr := false, cause := 0 } }
    ∧ exec (.wrreg 0x30 v) s = .next { s with csu := { s.csu with acc := v } }
    ∧ (sndOpen s → 1 ≤ v.toNat → v.toNat ≤ 0x7FFFFFFF →
        exec (.wrreg 0x10 v) s = .next { s with snd := { s.snd with wsize := v } })
    ∧ (sndOpen s → v.toNat ≠ 0 → exec (.wrreg 0x11 v) s = .next { s with snd := { s.snd with rto := v } })
    ∧ (sndOpen s → 1 ≤ v.toNat → v.toNat ≤ s.params.n.toNat →
        exec (.wrreg 0x12 v) s = .next { s with snd := { s.snd with maxpay := v } })
    ∧ (rcvOpen s → v.toNat ≠ 0 → exec (.wrreg 0x20 v) s = .next { s with rcv := { s.rcv with twdur := v } })

/-- R220, R221: a command some cause of R221 applies to is refused with the lowest-numbered one and changes only ERR
(RDREG answers 0); one that none applies to leaves ERR as it is, but for RESET and a write of ERR. -/
def Obligations.RefusalsFollowThePriorityTable : Prop :=
  ∀ (i : Instr) (s : State),
    match refusalCauses i s with
    | c :: _ => exec i s = .next (withErr c
        { s with rsp := match i with | .rdreg _ => s.rsp ++ [0] | _ => s.rsp })
    | [] => ∀ t, exec i s = .next t → t.err = s.err ∨ i = .reset ∨ ∃ v, i = .wrreg 0x02 v

/-! ### The checksum unit -/

/-- R120, R121: CK_CLR and CK_ADD. -/
def Obligations.CkClrAndCkAddUpdateTheAccumulator : Prop :=
  ∀ (s : State) (w : Half),
    exec .ckClr s = .next { s with csu := { s.csu with acc := 0, ovf := false } }
    ∧ exec (.ckAdd w) s = .next { s with csu := { s.csu with
        acc := BitVec.ofNat 32 ((s.csu.acc.toNat + w.toNat) % 2 ^ 32)
        ovf := s.csu.ovf || decide (2 ^ 32 ≤ s.csu.acc.toNat + w.toNat) } }

/-- R122: CK_ADDB adds the big-endian words of the padded string, wrapping modulo 2^32; CKOVF is set when some
addition carries out of bit 31, that is when the exact total does not fit. -/
def Obligations.CkAddbAddsThePaddedWords : Prop :=
  ∀ (s : State) (d : Bytes), exec (.ckAddb d) s = .next { s with csu := { s.csu with
    acc := BitVec.ofNat 32 ((s.csu.acc.toNat + exactSum d) % 2 ^ 32)
    ovf := s.csu.ovf || decide (2 ^ 32 ≤ s.csu.acc.toNat + exactSum d) } }

/-- R251: a string split at an even offset sums as the whole. -/
def Obligations.CkAddbSplitsAtEvenOffsets : Prop :=
  ∀ (s : State) (a b : Bytes), a.length % 2 = 0 →
    perform [.ckAddb a, .ckAddb b] s = exec (.ckAddb (a ++ b)) s

/-- R104, R106: Fold satisfies the recursion the spec defines it by, fits in 16 bits, is 0 only for 0, and is
otherwise a mod 0xFFFF with 0xFFFF in place of 0. The model's own Fold takes at most two steps (log 12). -/
def Obligations.FoldIsEndAroundCarry : Prop :=
  ∀ a : Word, fold a = (if a.toNat / 2 ^ 16 = 0 then a else fold (BitVec.ofNat 32 (a.toNat % 2 ^ 16 + a.toNat / 2 ^ 16)))
    ∧ (fold a).toNat ≤ 0xFFFF ∧ (fold a).toNat = foldNum a.toNat

/-- R123, R124: CK_FOLD folds the accumulator, CK_FIN folds it and puts the complement into CKRES. -/
def Obligations.CkFoldAndCkFinFoldTheAccumulator : Prop :=
  ∀ s : State,
    exec .ckFold s = .next { s with csu := { s.csu with acc := BitVec.ofNat 32 (foldNum s.csu.acc.toNat) } }
    ∧ exec .ckFin s = .next { s with csu := { s.csu with
        acc := BitVec.ofNat 32 (foldNum s.csu.acc.toNat)
        res := BitVec.ofNat 16 (0xFFFF - foldNum s.csu.acc.toNat) } }

/-- R84, R104, R124: CK_CLR, CK_ADDB and CK_FIN leave the checksum of the string in CKRES. -/
def Obligations.CkSumComputesTheChecksum : Prop :=
  ∀ (s : State) (d : Bytes), ∃ t, perform [.ckClr, .ckAddb d, .ckFin] s = .next t ∧ t.csu.res = ckOf d
    ∧ t.csu.res.toNat = ckNum d ∧ t.csu.ok = s.csu.ok
    ∧ t = { s with csu := t.csu }

/-- R125: CK_GEN of a string it accepts puts the checksum of its header and LEN payload bytes into CKRES; KIND and the
CK field are not looked at. -/
def Obligations.CkGenWritesTheChecksum : Prop :=
  ∀ (s : State) (d : Bytes), d.length = s.params.n.toNat + 14 → 0 ≤ lenNum d → lenNum d ≤ s.params.n.toNat →
    exec (.ckGen d) s = .next { s with csu := { s.csu with res := BitVec.ofNat 16 (ckNum (coverOf d)) } }

/-- R126: CK_VER gives the verdict FrameValid on any byte string, into CKOK alone. -/
def Obligations.CkVerGivesTheVerdict : Prop :=
  ∀ (s : State) (d : Bytes), ∃ v : Bool, exec (.ckVer d) s = .next { s with csu := { s.csu with ok := v } }
    ∧ (v = true ↔ FrameValid s.params d)

/-! ### The codec -/

/-- R109: an encoded frame has FRAME_BYTES bytes, is valid, and carries the fields it was made from, the payload area
beyond LEN zero. -/
def Obligations.EncodedFramesAreValid : Prop :=
  ∀ (p : Params) (q : Word) (k : Kind) (pay : Bytes), p.Legal → pay.length ≤ p.n.toNat →
    let f := encodeFrame p q k pay
    FrameValid p f ∧ num32 f 0 = q.toNat ∧ kindNum f = k.code.toNat ∧ lenNum f = pay.length ∧ payloadOf f = pay
      ∧ (∀ j, pay.length ≤ j → j < p.n.toNat → f.getD (12 + j) 1 = 0)

/-- R111: a valid frame with one bit inverted in SEQ, KIND, a covered payload byte or CK is not valid. -/
def Obligations.SingleBitErrorsAreDetected : Prop :=
  ∀ (p : Params) (f : Bytes) (i b : Nat), p.Legal → FrameValid p f → b < 8 →
    (i < 8 ∨ (12 ≤ i ∧ (i : Int) < 12 + lenNum f) ∨ i = 12 + p.n.toNat ∨ i = 13 + p.n.toNat) →
    ¬ FrameValid p (f.set i (f.getD i 0 ^^^ BitVec.ofNat 8 (2 ^ b)))

/-- R44: bytes of the payload area beyond LEN affect neither validity nor any field nor the payload. -/
def Obligations.UncoveredBytesAreIgnored : Prop :=
  ∀ (p : Params) (f : Bytes) (i : Nat) (x : Byte), p.Legal → FrameValid p f →
    12 + lenNum f ≤ (i : Int) → i < 12 + p.n.toNat →
    FrameValid p (f.set i x) ∧ payloadOf (f.set i x) = payloadOf f ∧ num32 (f.set i x) 0 = num32 f 0
      ∧ kindNum (f.set i x) = kindNum f ∧ lenNum (f.set i x) = lenNum f

/-! ### The sender -/

/-- R142: SND_SRC from IDLE or LOADING appends the bytes at SRCLEN; every other byte of SRC reads as before and
nothing else changes. -/
def Obligations.SndSrcAppendsToTheSource : Prop :=
  ∀ (s : State) (d : Bytes), s.params.Legal → (s.snd.st = .idle ∨ s.snd.st = .loading) →
    s.snd.srclen.toNat + d.length ≤ s.params.srcCap.toNat →
    ∃ m : Memory, exec (.sndSrc d) s = .next { s with snd := { s.snd with
        src := m, srclen := BitVec.ofNat 32 (s.snd.srclen.toNat + d.length), st := .loading } }
      ∧ ∀ a, m.read a = if s.snd.srclen.toNat ≤ a ∧ a < s.snd.srclen.toNat + d.length
          then d.getD (a - s.snd.srclen.toNat) 0 else s.snd.src.read a

/-- R142, R141: SND_SRC from DONE starts a new session whose source is its bytes alone. -/
def Obligations.SndSrcFromDoneStartsANewSession : Prop :=
  ∀ (s : State) (d : Bytes), s.params.Legal → s.snd.st = .done → d.length ≤ s.params.srcCap.toNat →
    ∃ m : Memory, exec (.sndSrc d) s = .next { s with snd := { s.snd with
        src := m, srclen := BitVec.ofNat 32 d.length, st := .loading, base := 0, next := 0, numpkt := 0,
        armed := false, stcnt := 0 } }
      ∧ ∀ a, a < d.length → m.read a = d.getD a 0

/-- R143: SND_EOF on a non-empty source makes NUMPKT = ceil(SRCLEN / MAXPAY) packets and the session READY. -/
def Obligations.SndEofPreparesThePackets : Prop :=
  ∀ s : State, s.Inv → (s.snd.st = .idle ∨ s.snd.st = .loading) → s.snd.srclen.toNat ≠ 0 →
    ∃ n : Word, exec .sndEof s = .next { s with snd := { s.snd with numpkt := n, base := 0, next := 0, st := .ready } }
      ∧ (n.toNat - 1) * s.snd.maxpay.toNat < s.snd.srclen.toNat
      ∧ s.snd.srclen.toNat ≤ n.toNat * s.snd.maxpay.toNat ∧ 1 ≤ n.toNat

/-- R143, R223: SND_EOF on an empty source, from IDLE, LOADING or DONE, is the fatal error EMPTY_SOURCE; only the
sender changes, its configuration is kept and its timer released. -/
def Obligations.SndEofOnEmptySourceIsFatal : Prop :=
  ∀ s : State, s.Inv →
    (((s.snd.st = .idle ∨ s.snd.st = .loading) ∧ s.snd.srclen.toNat = 0) ∨ s.snd.st = .done) →
    ∃ m : Memory, exec .sndEof s = .next { s with snd := { s.snd with
      st := .error .emptySource, base := 0, next := 0, numpkt := 0, srclen := 0, armed := false, stcnt := 0, src := m } }

/-- R52: packet i of a prepared session is the chunk of MAXPAY source bytes from i * MAXPAY on, numbered i, the last
one shorter if need be and tagged FinalData; its frame is valid and its length is between 1 and MAXPAY. -/
def Obligations.DataFramesAreTheSourceChunks : Prop :=
  ∀ (s : State) (i : Nat), s.Inv → (s.snd.st = .ready ∨ s.snd.st = .run) → i < s.snd.numpkt.toNat →
    let f := dataFrame s.params s.snd i
    let len := min s.snd.maxpay.toNat (s.snd.srclen.toNat - i * s.snd.maxpay.toNat)
    FrameValid s.params f ∧ seqNum f = i ∧ kindNum f = (if i + 1 = s.snd.numpkt.toNat then 1 else 0)
      ∧ lenNum f = len ∧ 1 ≤ len
      ∧ payloadOf f = ((sourceBytes s.snd).drop (i * s.snd.maxpay.toNat)).take s.snd.maxpay.toNat

/-- R144, R140: SND_START in READY sends packets 0 to min(WSIZE, NUMPKT) - 1 in order and arms the timer. -/
def Obligations.SndStartSendsTheFirstWindow : Prop :=
  ∀ s : State, s.Inv → s.snd.st = .ready →
    let k := min s.snd.wsize.toNat s.snd.numpkt.toNat
    1 ≤ k ∧ exec .sndStart s = .next { s with
      snd := { s.snd with st := .run, base := 0, next := BitVec.ofNat 32 k, armed := true, stcnt := 0 }
      stx := s.stx ++ framesFrom s 0 k }

/-- R145, R147: a valid Ack(n) with BASE <= n < NEXT retires every packet up to n at once; the session is DONE when
none is left, otherwise the timer has a fresh period and the window is filled again. -/
def Obligations.SndRxAcceptsNewAcks : Prop :=
  ∀ (s : State) (d : Bytes) (n : Nat), s.Inv → s.snd.st = .run → FrameValid s.params d → kindNum d = 3 →
    seqNum d = n → s.snd.base.toNat ≤ n → n < s.snd.next.toNat →
    exec (.sndRx d) s = .next
      (if n + 1 = s.snd.numpkt.toNat then
        { s with snd := { s.snd with st := .done, base := BitVec.ofNat 32 (n + 1), armed := false, stcnt := 0 } }
      else
        let lim := min (n + 1 + s.snd.wsize.toNat) s.snd.numpkt.toNat
        { s with
          snd := { s.snd with base := BitVec.ofNat 32 (n + 1), next := BitVec.ofNat 32 lim, armed := true, stcnt := 0 }
          stx := s.stx ++ framesFrom s s.snd.next.toNat lim })

/-- R145, R148: SND_RX ignores every frame outside RUN, every frame that is not a valid Ack, every stale Ack (Ack(-1)
among them) and every Ack of a packet never sent. -/
def Obligations.SndRxIgnoresEverythingElse : Prop :=
  ∀ (s : State) (d : Bytes),
    (s.snd.st ≠ .run ∨ ¬ FrameValid s.params d ∨ kindNum d ≠ 3 ∨ seqNum d < s.snd.base.toNat
      ∨ (s.snd.next.toNat : Int) ≤ seqNum d) →
    exec (.sndRx d) s = .next s

/-- R150: SND_TICK is not counted outside RUN; in RUN it counts, and on the tick that reaches RTO it restarts the
count and sends the whole window again, in increasing order. -/
def Obligations.SndTickCountsAndRetransmits : Prop :=
  ∀ s : State,
    (s.snd.st ≠ .run → exec .sndTick s = .next s)
    ∧ (s.Inv → s.snd.st = .run → s.snd.stcnt.toNat + 1 ≠ s.snd.rto.toNat →
        exec .sndTick s = .next { s with snd := { s.snd with stcnt := s.snd.stcnt + 1 } })
    ∧ (s.Inv → s.snd.st = .run → s.snd.stcnt.toNat + 1 = s.snd.rto.toNat →
        exec .sndTick s = .next { s with
          snd := { s.snd with stcnt := 0 }, stx := s.stx ++ framesFrom s s.snd.base.toNat s.snd.next.toNat })

/-- R150: the timeout fires on exactly the RTO-th tick after the timer was armed or rearmed. -/
def Obligations.TimeoutFiresOnTheRtoThTick : Prop :=
  ∀ s : State, s.Inv → s.snd.st = .run → s.snd.stcnt = 0 →
    (∀ k, k < s.snd.rto.toNat →
      perform (List.replicate k .sndTick) s = .next { s with snd := { s.snd with stcnt := BitVec.ofNat 32 k } })
    ∧ perform (List.replicate s.snd.rto.toNat .sndTick) s
        = .next { s with stx := s.stx ++ framesFrom s s.snd.base.toNat s.snd.next.toNat }

/-- R151, R152, R141, R223: SND_TXERR in RUN is the fatal error TX_ERROR, which keeps the session registers;
SND_ABORT returns the sender to IDLE from every state, its configuration kept. -/
def Obligations.SndTxerrAndSndAbortEndTheSession : Prop :=
  ∀ s : State,
    (s.snd.st = .run → exec .sndTxerr s
      = .next { s with snd := { s.snd with st := .error .txError, armed := false, stcnt := 0 } })
    ∧ ∃ m : Memory, exec .sndAbort s = .next { s with snd := { s.snd with
        st := .idle, base := 0, next := 0, numpkt := 0, srclen := 0, armed := false, stcnt := 0, src := m } }

/-- R53: from READY on, a step that keeps the session keeps SRC and every data frame, so every retransmission is
byte-identical to the first transmission. -/
def Obligations.RetransmissionsAreByteIdentical : Prop :=
  ∀ s t : State, s.Inv → (s.snd.st = .ready ∨ s.snd.st = .run) → step s = .next t → t.snd.st ≠ .idle →
    t.snd.src = s.snd.src ∧ t.snd.numpkt = s.snd.numpkt
      ∧ ∀ i, i < s.snd.numpkt.toNat → dataFrame t.params t.snd i = dataFrame s.params s.snd i

/-- R153: a session in RUN reaches DONE exactly when a valid Ack(NUMPKT - 1) is performed. -/
def Obligations.DoneExactlyOnTheLastAck : Prop :=
  ∀ s t : State, s.Inv → s.snd.st = .run → step s = .next t →
    (t.snd.st = .done ↔ ∃ d rest, s.resetIn = false ∧ decode s.port = .instr (.sndRx d) rest
      ∧ FrameValid s.params d ∧ kindNum d = 3 ∧ seqNum d = s.snd.numpkt.toNat - 1
      ∧ s.snd.next = s.snd.numpkt)

/-! ### The receiver -/

/-- R172: RCV_OPEN in IDLE or DONE, with at most N bytes, starts a session and issues the Request frame. -/
def Obligations.RcvOpenIssuesTheRequest : Prop :=
  ∀ (s : State) (d : Bytes), rcvOpen s → d.length ≤ s.params.n.toNat →
    exec (.rcvOpen d) s = .next { s with
      rcv := { s.rcv with st := .receiving, expected := 0, lastkind := 0xFF, twcnt := 0 }
      rtx := s.rtx ++ [encodeFrame s.params 0 .request d] }

/-- R174, R170: the expected Data or FinalData frame is delivered, counted and acknowledged; FinalData starts the
time-wait. That a frame with LEN = 0 adds an empty item to SINK is the model's choice, DEDUCED (log 11): R174 says that it
delivers no bytes. That SEQ 0xFFFFFFFF matches EXPECTED = 0xFFFFFFFF is the model's choice (log 16). -/
def Obligations.RcvRxAcceptsTheExpectedFrame : Prop :=
  ∀ (s : State) (d : Bytes), s.rcv.st = .receiving → FrameValid s.params d → kindNum d ≤ 1 →
    num32 d 0 = s.rcv.expected.toNat →
    exec (.rcvRx d) s = .next { s with
      rcv := { s.rcv with
        expected := s.rcv.expected + 1, lastkind := BitVec.ofNat 8 (kindNum d)
        st := if kindNum d = 1 then .finalAckSent else .receiving
        twcnt := if kindNum d = 1 then 0 else s.rcv.twcnt }
      sink := s.sink ++ [.bytes (payloadOf d)]
      rtx := s.rtx ++ [encodeFrame s.params s.rcv.expected .ack []] }

/-- R174, R175, R173: every other frame in RECEIVING, and every frame in FINAL_ACK_SENT, gets the cumulative ACK of
EXPECTED - 1 mod 2^32 and nothing else; outside both states the frame is ignored. That a valid data frame of SEQ
0xFFFFFFFF is not among the others at EXPECTED = 0xFFFFFFFF is the model's choice (log 16). -/
def Obligations.RcvRxAnswersOrIgnoresOtherFrames : Prop :=
  ∀ (s : State) (d : Bytes),
    ((s.rcv.st = .finalAckSent ∨ s.rcv.st = .receiving ∧ (¬ FrameValid s.params d ∨ 1 < kindNum d
        ∨ num32 d 0 ≠ s.rcv.expected.toNat)) →
      exec (.rcvRx d) s = .next { s with
        rtx := s.rtx ++ [encodeFrame s.params (BitVec.ofInt 32 ((s.rcv.expected.toNat : Int) - 1)) .ack []] })
    ∧ (s.rcv.st ≠ .receiving → s.rcv.st ≠ .finalAckSent → exec (.rcvRx d) s = .next s)

/-- R177: RCV_TICK counts only in FINAL_ACK_SENT; the tick that reaches TWDUR ends the session and closes the sink. -/
def Obligations.RcvTickCountsTheTimeWait : Prop :=
  ∀ s : State,
    (s.rcv.st ≠ .finalAckSent → exec .rcvTick s = .next s)
    ∧ (s.Inv → s.rcv.st = .finalAckSent → s.rcv.twcnt.toNat + 1 ≠ s.rcv.twdur.toNat →
        exec .rcvTick s = .next { s with rcv := { s.rcv with twcnt := s.rcv.twcnt + 1 } })
    ∧ (s.Inv → s.rcv.st = .finalAckSent → s.rcv.twcnt.toNat + 1 = s.rcv.twdur.toNat →
        exec .rcvTick s = .next { s with
          rcv := { s.rcv with twcnt := s.rcv.twdur, st := .done }, sink := s.sink ++ [.close] })

/-- R178, R179, R171, R223: RCV_TXERR during a session is the fatal error TX_ERROR, which keeps EXPECTED and LASTKIND;
RCV_ABORT returns the receiver to IDLE from every state, TWDUR kept. -/
def Obligations.RcvTxerrAndRcvAbortEndTheSession : Prop :=
  ∀ s : State,
    ((s.rcv.st = .receiving ∨ s.rcv.st = .finalAckSent) →
      exec .rcvTxerr s = .next { s with rcv := { s.rcv with st := .error .txError, twcnt := 0 } })
    ∧ exec .rcvAbort s = .next { s with rcv := { s.rcv with st := .idle, expected := 0, lastkind := 0xFF, twcnt := 0 } }

/-- R177: DONE is reached on exactly the TWDUR-th tick after the accept of the FinalData frame, not before, whatever
frames and receive errors arrive in between. -/
def Obligations.TimeWaitEndsOnTheTwdurThTick : Prop :=
  ∀ (s : State) (is : List Instr), s.Inv → s.rcv.st = .finalAckSent → s.rcv.twcnt = 0 →
    (∀ i ∈ is, i = .rcvTick ∨ i = .rcvRxerr ∨ ∃ d, i = .rcvRx d) →
    ∃ t, perform is s = .next t
      ∧ (is.count .rcvTick < s.rcv.twdur.toNat →
          t.rcv = { s.rcv with twcnt := BitVec.ofNat 32 (is.count .rcvTick) } ∧ t.sink = s.sink)
      ∧ (s.rcv.twdur.toNat ≤ is.count .rcvTick →
          t.rcv = { s.rcv with twcnt := s.rcv.twdur, st := .done } ∧ t.sink = s.sink ++ [.close])

/-- R180: whatever frames arrive in a session, what is delivered is the payloads of accepted frames whose SEQ is
EXPECTED, EXPECTED + 1, and so on, each once; and every frame is answered by one ACK (R170, R174). R180 speaks of bytes:
that SINK has one item for each accepted frame, an empty one where LEN = 0, is the model's choice, DEDUCED (log 11). That
the sequence runs on through SEQ 0xFFFFFFFF and wraps to 0 is the model's choice (log 16). -/
def Obligations.DeliveryIsInOrderAndEveryFrameIsAcked : Prop :=
  ∀ (s : State) (ds : List Bytes), s.rcv.st = .receiving →
    ∃ (t : State) (acc : List Bytes), perform (ds.map .rcvRx) s = .next t ∧ acc.Sublist ds
      ∧ t.sink = s.sink ++ acc.map (fun f => .bytes (payloadOf f))
      ∧ (∀ k, k < acc.length → FrameValid s.params (acc.getD k []) ∧ kindNum (acc.getD k []) ≤ 1
          ∧ num32 (acc.getD k []) 0 = (s.rcv.expected.toNat + k) % 2 ^ 32)
      ∧ t.rcv.expected.toNat = (s.rcv.expected.toNat + acc.length) % 2 ^ 32
      ∧ ∃ qs : List Word, qs.length = ds.length
          ∧ t.rtx = s.rtx ++ qs.map (fun q => encodeFrame s.params q .ack [])

/-- R181: a step adds SINK_CLOSE to SINK only where it moves the receiver from FINAL_ACK_SENT to DONE, and then once. -/
def Obligations.SinkClosesOnlyAtTheEndOfTheTimeWait : Prop :=
  ∀ s t : State, step s = .next t → t.sink.count .close ≠ s.sink.count .close →
    s.rcv.st = .finalAckSent ∧ t.rcv.st = .done ∧ t.sink = s.sink ++ [.close]

/-! ### Sender and receiver together -/

/-- R3, R180: the data frames of a prepared session, delivered in order to a fresh receiver session of the same N,
are delivered as the source bytes and acknowledged 0, 1, 2, ...; the receiver ends in FINAL_ACK_SENT. -/
def Obligations.TransferDeliversTheSource : Prop :=
  ∀ s r : State, s.Inv → (s.snd.st = .ready ∨ s.snd.st = .run) → r.params = s.params → r.rcv.st = .receiving →
    r.rcv.expected = 0 →
    let n := s.snd.numpkt.toNat
    ∃ t, perform ((framesFrom s 0 n).map .rcvRx) r = .next t
      ∧ t.rcv.st = .finalAckSent ∧ t.rcv.expected = s.snd.numpkt ∧ t.rcv.twcnt = 0
      ∧ t.sink = r.sink ++ (List.range n).map (fun i => .bytes (packetPayload s.snd i))
      ∧ ((List.range n).map (packetPayload s.snd)).flatten = sourceBytes s.snd
      ∧ t.rtx = r.rtx ++ (List.range n).map (fun i => encodeFrame r.params (BitVec.ofNat 32 i) .ack [])

/-- R180, R231: whatever the channel loses, repeats, reorders or makes invalid, a receiver session that gets only frames
of one prepared session, and invalid ones, has delivered exactly the first EXPECTED packets of that source. A channel
that brings valid frames foreign to the session (R231, or undetected errors of R111) is excluded by hypothesis. -/
def Obligations.AnyChannelDeliversAPrefixOfTheSource : Prop :=
  ∀ (s r : State) (ds : List Bytes), s.Inv → (s.snd.st = .ready ∨ s.snd.st = .run) → r.params = s.params →
    r.rcv.st = .receiving → r.rcv.expected = 0 →
    (∀ d ∈ ds, ¬ FrameValid s.params d ∨ ∃ i, i < s.snd.numpkt.toNat ∧ d = dataFrame s.params s.snd i) →
    ∃ t, perform (ds.map .rcvRx) r = .next t ∧ t.rcv.expected.toNat ≤ s.snd.numpkt.toNat
      ∧ t.sink = r.sink ++ (List.range t.rcv.expected.toNat).map (fun i => .bytes (packetPayload s.snd i))
      ∧ (t.rcv.st = .finalAckSent ↔ t.rcv.expected = s.snd.numpkt)

/-! ### Rules of the whole machine -/

/-- R38, R39, R51 and the ranges of R19 to R34: every step keeps the invariant. That SRC lists exactly the addresses 0 to
SRCLEN - 1, in canonical form, is the model's form of R51 (log 7). -/
def Obligations.EveryStepKeepsTheInvariant : Prop :=
  ∀ s t : State, s.Inv → step s = .next t → t.Inv

/-- The state right after reset meets the invariant, for every legal choice of the parameters. -/
def Obligations.ResetMeetsTheInvariant : Prop :=
  (∀ p : Params, p.Legal → (State.resetWith p).Inv) ∧ State.reset.Inv

/-- Every state that any sequence of commands and resets reaches meets the invariant, and the machine never stops
there: it takes a next step. So the model's one fault, `srcAddress` (log 8), is raised in no reachable state. -/
def Obligations.NoReachableStateStops : Prop :=
  ∀ s : State, Reachable s → s.Safe

/-- R60: no SWE command changes an RDE or CSU register, no RDE command an SWE or CSU register, and no CSU command an
engine register; each emits only into its own streams, and no command changes the parameters or the port. -/
def Obligations.UnitsShareNoState : Prop :=
  ∀ (i : Instr) (s t : State), exec i s = .next t →
    (t.params = s.params ∧ t.port = s.port ∧ t.resetIn = s.resetIn)
    ∧ (unitOf i = 1 → t.snd = s.snd ∧ t.rcv = s.rcv ∧ t.stx = s.stx ∧ t.rtx = s.rtx ∧ t.sink = s.sink ∧ t.rsp = s.rsp)
    ∧ (unitOf i = 2 → t.rcv = s.rcv ∧ t.csu = s.csu ∧ t.rtx = s.rtx ∧ t.sink = s.sink ∧ t.rsp = s.rsp)
    ∧ (unitOf i = 3 → t.snd = s.snd ∧ t.csu = s.csu ∧ t.stx = s.stx ∧ t.rsp = s.rsp)

/-- R56: a step never removes or reorders an item of a stream. -/
def Obligations.StreamsOnlyGrow : Prop :=
  ∀ s t : State, step s = .next t → s.stx <+: t.stx ∧ s.rtx <+: t.rtx ∧ s.sink <+: t.sink ∧ s.rsp <+: t.rsp

/-- R109: every frame a step emits on STX or RTX has FRAME_BYTES bytes and is valid. -/
def Obligations.EmittedFramesAreValid : Prop :=
  ∀ s t : State, s.Inv → step s = .next t →
    (∀ f ∈ t.stx, f ∈ s.stx ∨ FrameValid s.params f) ∧ ∀ f ∈ t.rtx, f ∈ s.rtx ∨ FrameValid s.params f

/-- R224: an engine in ERROR keeps all its registers until its ABORT command, RESET or the reset input returns it to
IDLE. -/
def Obligations.ErrorIsLeftOnlyByAbortOrReset : Prop :=
  ∀ s t : State, step s = .next t →
    (∀ c, s.snd.st = .error c → t.snd = s.snd ∨ t.snd.st = .idle ∧ (s.resetIn = true
      ∨ ∃ rest, decode s.port = .instr .sndAbort rest ∨ decode s.port = .instr .reset rest))
    ∧ (∀ c, s.rcv.st = .error c → t.rcv = s.rcv ∨ t.rcv.st = .idle ∧ (s.resetIn = true
      ∨ ∃ rest, decode s.port = .instr .rcvAbort rest ∨ decode s.port = .instr .reset rest))

/-- R248: configuration is locked for the length of a session: a step changes it only by a reset of the whole RDB. -/
def Obligations.ConfigurationIsLockedInASession : Prop :=
  ∀ s t : State, step s = .next t →
    (s.snd.st ≠ .idle → s.snd.st ≠ .done →
      (t.snd.wsize = s.snd.wsize ∧ t.snd.rto = s.snd.rto ∧ t.snd.maxpay = s.snd.maxpay)
        ∨ s.resetIn = true ∨ ∃ rest, decode s.port = .instr .reset rest)
    ∧ (s.rcv.st ≠ .idle → s.rcv.st ≠ .done →
      t.rcv.twdur = s.rcv.twdur ∨ s.resetIn = true ∨ ∃ rest, decode s.port = .instr .reset rest)

/-- R38 (c), R39 (a): while a session lasts BASE never decreases, and EXPECTED stays or increases by one, the latter
with exactly one item delivered. That an accepted frame with LEN = 0, which by R174 delivers no bytes, is such an item,
an empty one, is the model's choice, DEDUCED (log 11). The increase is modulo 2^32 (R32); that it happens at EXPECTED =
0xFFFFFFFF at all is the model's choice (log 16). -/
def Obligations.SessionProgressIsMonotone : Prop :=
  ∀ s t : State, s.Inv → step s = .next t →
    ((s.snd.st = .ready ∨ s.snd.st = .run) → t.snd.st ≠ .idle → s.snd.base.toNat ≤ t.snd.base.toNat)
    ∧ ((s.rcv.st = .receiving ∨ s.rcv.st = .finalAckSent) → t.rcv.st ≠ .idle →
        t.rcv.expected = s.rcv.expected
        ∨ t.rcv.expected = s.rcv.expected + 1 ∧ s.rcv.st = .receiving ∧ ∃ p, t.sink = s.sink ++ [.bytes p])

/-- R51: only SND_SRC changes a byte of a source that is still held. That SRC is a list in canonical form, which every
step keeps, and that the list is emptied together with SRCLEN = 0, is the model's choice (log 7), not R51. -/
def Obligations.SourceBufferIsWrittenOnlyBySndSrc : Prop :=
  ∀ s t : State, step s = .next t →
    (Memory.wf s.snd.src → Memory.wf t.snd.src)
    ∧ (t.snd.src = s.snd.src ∨ t.snd.srclen = 0 ∨ ∃ d rest, decode s.port = .instr (.sndSrc d) rest)
end

