-- ==== Sys2Proof/Laws/Codec.lean ====
section
/-! SUPPORT. The laws of the codec: byte order of the fields, lengths, the words and the fold of the checksum, and the
fields of an encoded frame. -/

namespace Sys2Proof.Machine

/-! ### Byte order -/

theorem toNat_append_byte {n : Nat} (a : BitVec n) (b : Byte) : (a ++ b).toNat = a.toNat * 256 + b.toNat := by
  rw [BitVec.toNat_append, Nat.shiftLeft_eq, Nat.mul_comm, ← Nat.two_pow_add_eq_or_of_lt b.isLt]

theorem be16_toNat (s : Bytes) (i : Nat) :
    (be16 s i).toNat = (s.getD i 0).toNat * 256 + (s.getD (i + 1) 0).toNat := toNat_append_byte _ _

theorem be32_toNat (s : Bytes) (i : Nat) :
    (be32 s i).toNat = (s.getD i 0).toNat * 2 ^ 24 + (s.getD (i + 1) 0).toNat * 2 ^ 16
      + (s.getD (i + 2) 0).toNat * 2 ^ 8 + (s.getD (i + 3) 0).toNat := by
  unfold be32
  rw [toNat_append_byte, toNat_append_byte, toNat_append_byte]
  omega

/-- The four bytes of a word, read back big-endian, are the word. -/
theorem bytes_append_word (v : Word) :
    (v.extractLsb' 24 8 ++ v.extractLsb' 16 8 ++ v.extractLsb' 8 8 ++ v.extractLsb' 0 8 : Word) = v := by
  apply BitVec.eq_of_toNat_eq
  rw [toNat_append_byte, toNat_append_byte, toNat_append_byte]
  simp only [BitVec.extractLsb'_toNat, Nat.shiftRight_eq_div_pow]
  have := v.isLt
  omega

theorem bytes_append_half (v : Half) : (v.extractLsb' 8 8 ++ v.extractLsb' 0 8 : Half) = v := by
  apply BitVec.eq_of_toNat_eq
  rw [toNat_append_byte]
  simp only [BitVec.extractLsb'_toNat, Nat.shiftRight_eq_div_pow]
  have := v.isLt
  omega

@[simp] theorem enc16_length (v : Half) : (enc16 v).length = 2 := rfl

@[simp] theorem enc32_length (v : Word) : (enc32 v).length = 4 := rfl

@[simp] theorem header_length (q : Word) (k : Kind) (l : Nat) : (header q k l).length = 12 := rfl

/-- A field read at the place `enc32` was put. -/
theorem be32_enc32 (a b : Bytes) (v : Word) : be32 (a ++ enc32 v ++ b) a.length = v := by
  have h : ∀ j, j < 4 → (a ++ enc32 v ++ b).getD (a.length + j) 0 = (enc32 v).getD j 0 := by
    intro j hj
    rw [List.getD_append _ _ _ _ (by simp; omega), List.getD_append_right _ _ _ _ (by omega)]
    congr 1; omega
  have h0 := h 0 (by omega)
  rw [Nat.add_zero] at h0
  unfold be32
  rw [h0, h 1 (by omega), h 2 (by omega), h 3 (by omega)]
  exact bytes_append_word v

/-- A checksum field read at the place `enc16` was put. -/
theorem be16_enc16 (a : Bytes) (v : Half) : be16 (a ++ enc16 v) a.length = v := by
  have h : ∀ j, (a ++ enc16 v).getD (a.length + j) 0 = (enc16 v).getD j 0 := by
    intro j
    rw [List.getD_append_right _ _ _ _ (by omega)]
    congr 1; omega
  have h0 := h 0
  rw [Nat.add_zero] at h0
  unfold be16
  rw [h0, h 1]
  exact bytes_append_half v

/-! ### The checksum -/

theorem words_append : ∀ (a b : Bytes), a.length % 2 = 0 → words (a ++ b) = words a ++ words b
  | [], b, _ => rfl
  | [_], _, h => by simp at h
  | x :: y :: a, b, h => by
    have := words_append a b (by simpa [Nat.add_assoc] using h)
    simp [words, this]

theorem foldOnce_toNat (a : Word) : (foldOnce a).toNat = a.toNat % 65536 + a.toNat / 65536 := by
  have h1 : (a &&& 0xFFFF#32).toNat = a.toNat % 65536 := by
    rw [BitVec.toNat_and]; exact Nat.and_two_pow_sub_one_eq_mod a.toNat 16
  have h2 : (a >>> 16).toNat = a.toNat / 65536 := by
    rw [BitVec.toNat_ushiftRight, Nat.shiftRight_eq_div_pow]
  have := a.isLt
  unfold foldOnce
  rw [BitVec.toNat_add, h1, h2]
  omega

theorem high_eq_zero (a : Word) : a >>> 16 = 0 ↔ a.toNat < 65536 := by
  constructor
  · intro h
    have := congrArg BitVec.toNat h
    rw [BitVec.toNat_ushiftRight, Nat.shiftRight_eq_div_pow] at this
    simp at this; omega
  · intro h
    apply BitVec.eq_of_toNat_eq
    rw [BitVec.toNat_ushiftRight, Nat.shiftRight_eq_div_pow]
    simp; omega

/-- What the fold answers: 0 for 0, otherwise the value modulo 0xFFFF with 0xFFFF in place of 0 (R106). -/
theorem fold_toNat (a : Word) : (fold a).toNat = if a.toNat = 0 then 0 else (a.toNat - 1) % 65535 + 1 := by
  have := a.isLt
  have h1 := foldOnce_toNat a
  have h2 := foldOnce_toNat (foldOnce a)
  unfold fold
  by_cases ha : a.toNat < 65536
  · rw [if_pos ((high_eq_zero a).2 ha)]
    split_ifs <;> omega
  · rw [if_neg (fun h => ha ((high_eq_zero a).1 h))]
    dsimp only
    by_cases hb : (foldOnce a).toNat < 65536
    · rw [if_pos ((high_eq_zero _).2 hb)]
      split_ifs <;> omega
    · rw [if_neg (fun h => hb ((high_eq_zero _).1 h))]
      split_ifs <;> omega

theorem fold_lt (a : Word) : (fold a).toNat ≤ 65535 := by
  rw [fold_toNat]; split_ifs <;> omega

/-- CkOf as a number (R104). -/
theorem ckOf_toNat (s : Bytes) : (ckOf s).toNat = 65535 - (fold (sum32 s)).toNat := by
  have := fold_lt (sum32 s)
  have h2 := (fold (sum32 s)).isLt
  unfold ckOf
  rw [BitVec.toNat_setWidth, BitVec.toNat_not]
  omega

/-! ### Encoded frames -/

theorem encodeFrame_eq (p : Params) (q : Word) (k : Kind) (pay : Bytes) :
    encodeFrame p q k pay = header q k pay.length ++ pay ++ List.replicate (p.n.toNat - pay.length) 0
      ++ enc16 (ckOf (header q k pay.length ++ pay)) := rfl

theorem encodeFrame_length (p : Params) (q : Word) (k : Kind) (pay : Bytes) (h : pay.length ≤ p.n.toNat) :
    (encodeFrame p q k pay).length = frameBytes p := by
  simp [encodeFrame_eq, frameBytes]; omega

@[simp] theorem seqField_encodeFrame (p : Params) (q : Word) (k : Kind) (pay : Bytes) :
    seqField (encodeFrame p q k pay) = q := by
  have := be32_enc32 [] (enc32 k.code ++ enc32 (BitVec.ofNat 32 pay.length) ++ pay
    ++ List.replicate (p.n.toNat - pay.length) 0 ++ enc16 (ckOf (header q k pay.length ++ pay))) q
  simpa [seqField, encodeFrame_eq, header, List.append_assoc] using this

@[simp] theorem kindField_encodeFrame (p : Params) (q : Word) (k : Kind) (pay : Bytes) :
    kindField (encodeFrame p q k pay) = k.code := by
  have := be32_enc32 (enc32 q) (enc32 (BitVec.ofNat 32 pay.length) ++ pay
    ++ List.replicate (p.n.toNat - pay.length) 0 ++ enc16 (ckOf (header q k pay.length ++ pay))) k.code
  simpa [kindField, encodeFrame_eq, header, List.append_assoc] using this

theorem lenField_encodeFrame (p : Params) (q : Word) (k : Kind) (pay : Bytes) (h : pay.length < 2 ^ 31) :
    lenField (encodeFrame p q k pay) = pay.length := by
  have := be32_enc32 (enc32 q ++ enc32 k.code) (pay
    ++ List.replicate (p.n.toNat - pay.length) 0 ++ enc16 (ckOf (header q k pay.length ++ pay)))
    (BitVec.ofNat 32 pay.length)
  have e : be32 (encodeFrame p q k pay) 8 = BitVec.ofNat 32 pay.length := by
    simpa [encodeFrame_eq, header, List.append_assoc] using this
  rw [lenField, e, BitVec.toInt_eq_toNat_of_lt (by rw [BitVec.toNat_ofNat]; omega), BitVec.toNat_ofNat]
  omega

theorem payload_encodeFrame (p : Params) (q : Word) (k : Kind) (pay : Bytes) (h : pay.length < 2 ^ 31) :
    payload (encodeFrame p q k pay) = pay := by
  rw [payload, lenField_encodeFrame p q k pay h, encodeFrame_eq, List.append_assoc, List.append_assoc]
  rw [show (12 : Nat) = (header q k pay.length).length from rfl, List.drop_left]
  simp

theorem cover_encodeFrame (p : Params) (q : Word) (k : Kind) (pay : Bytes) (h : pay.length < 2 ^ 31) :
    cover (encodeFrame p q k pay) = header q k pay.length ++ pay := by
  have hp := payload_encodeFrame p q k pay h
  rw [payload] at hp
  rw [cover, hp, encodeFrame_eq, List.append_assoc, List.append_assoc, List.take_append_of_le_length (by simp)]
  simp

theorem ckField_encodeFrame (p : Params) (q : Word) (k : Kind) (pay : Bytes) (h : pay.length ≤ p.n.toNat) :
    ckField p (encodeFrame p q k pay) = ckOf (header q k pay.length ++ pay) := by
  have := be16_enc16 (header q k pay.length ++ pay ++ List.replicate (p.n.toNat - pay.length) 0)
    (ckOf (header q k pay.length ++ pay))
  rw [← encodeFrame_eq] at this
  rw [ckField, ckOff]
  convert this using 2
  simp; omega

theorem Kind.code_le (k : Kind) : k.code.toNat ≤ 3 := by cases k <;> decide

end Sys2Proof.Machine
end

