-- ==== Sys2Proof/Laws/Decode.lean ====
section
/-! SUPPORT. The laws of the command encoding: the fields of a command word, the packing of a data phase, and what
the decoder answers for a command word followed by its data words. -/

namespace Sys2Proof

open Sys2Proof.Machine (toNat_append_byte bytes_append_word)

/-- The rows of the opcode map have different OPC values, so a row is found by its own. -/
theorem Opc.ofCode_code (o : Opc) : Opc.ofCode o.code = some o := by cases o <;> decide

/-- A row found by an OPC value has that value. -/
theorem Opc.code_of_ofCode {c : Byte} {o : Opc} (h : Opc.ofCode c = some o) : o.code = c := by
  have := List.find?_some h
  simpa using this

theorem commandWord_toNat (c : Byte) (m : Half) : (commandWord c m).toNat = c.toNat * 2 ^ 24 + m.toNat := by
  have h := m.isLt
  unfold commandWord
  rw [BitVec.toNat_append, Nat.shiftLeft_eq, Nat.mul_comm, ← Nat.two_pow_add_eq_or_of_lt h, toNat_append_byte]
  simp
  omega

theorem opcField_toNat (w : Word) : (opcField w).toNat = w.toNat / 2 ^ 24 := by
  have := w.isLt
  simp only [opcField, BitVec.extractLsb'_toNat, Nat.shiftRight_eq_div_pow]; omega

theorem rsvField_toNat (w : Word) : (rsvField w).toNat = w.toNat / 2 ^ 16 % 2 ^ 8 := by
  simp only [rsvField, BitVec.extractLsb'_toNat, Nat.shiftRight_eq_div_pow]

theorem immField_toNat (w : Word) : (immField w).toNat = w.toNat % 2 ^ 16 := by
  simp only [immField, BitVec.extractLsb'_toNat, Nat.shiftRight_eq_div_pow]; omega

@[simp] theorem opcField_commandWord (c : Byte) (m : Half) : opcField (commandWord c m) = c := by
  apply BitVec.eq_of_toNat_eq
  have := m.isLt
  rw [opcField_toNat, commandWord_toNat]; omega

@[simp] theorem rsvField_commandWord (c : Byte) (m : Half) : rsvField (commandWord c m) = 0 := by
  apply BitVec.eq_of_toNat_eq
  have := m.isLt
  rw [rsvField_toNat, commandWord_toNat]; simp; omega

@[simp] theorem immField_commandWord (c : Byte) (m : Half) : immField (commandWord c m) = m := by
  apply BitVec.eq_of_toNat_eq
  have := m.isLt
  rw [immField_toNat, commandWord_toNat]; omega

/-! ### The data phase -/

theorem packWords_length : ∀ d : Bytes, (packWords d).length = (d.length + 3) / 4
  | [] => by simp [packWords]
  | [_] => by simp [packWords]
  | [_, _] => by simp [packWords]
  | [_, _, _] => by simp [packWords]
  | a :: b :: c :: e :: rest => by
    simp only [packWords, List.length_cons, packWords_length rest]; omega

theorem wordBytes_append (a b c e : Byte) : wordBytes (a ++ b ++ c ++ e : Word) = [a, b, c, e] := by
  have h : (a ++ b ++ c ++ e : Word).toNat = ((a.toNat * 256 + b.toNat) * 256 + c.toNat) * 256 + e.toNat := by
    rw [toNat_append_byte, toNat_append_byte, toNat_append_byte]
  have ha := a.isLt
  have hb := b.isLt
  have hc := c.isLt
  have he := e.isLt
  unfold wordBytes
  congr 1
  · apply BitVec.eq_of_toNat_eq
    rw [BitVec.extractLsb'_toNat, Nat.shiftRight_eq_div_pow, h]; omega
  congr 1
  · apply BitVec.eq_of_toNat_eq
    rw [BitVec.extractLsb'_toNat, Nat.shiftRight_eq_div_pow, h]; omega
  congr 1
  · apply BitVec.eq_of_toNat_eq
    rw [BitVec.extractLsb'_toNat, Nat.shiftRight_eq_div_pow, h]; omega
  congr 1
  · apply BitVec.eq_of_toNat_eq
    rw [BitVec.extractLsb'_toNat, Nat.shiftRight_eq_div_pow, h]; omega

/-- The bytes of a packed string are the string, but for the filling of the last word. -/
theorem packWords_bytes : ∀ d : Bytes, ∃ k, (packWords d).flatMap wordBytes = d ++ List.replicate k 0
  | [] => ⟨0, rfl⟩
  | [a] => ⟨3, by simp [packWords, wordBytes_append, List.replicate]⟩
  | [a, b] => ⟨2, by simp [packWords, wordBytes_append, List.replicate]⟩
  | [a, b, c] => ⟨1, by simp [packWords, wordBytes_append, List.replicate]⟩
  | a :: b :: c :: e :: rest => by
    obtain ⟨k, hk⟩ := packWords_bytes rest
    exact ⟨k, by simp [packWords, wordBytes_append, hk]⟩

/-- Packing a byte string into words and reading its bytes back gives the string (R73). -/
theorem dataBytes_packWords (d : Bytes) : dataBytes d.length (packWords d) = d := by
  obtain ⟨k, hk⟩ := packWords_bytes d
  simp [dataBytes, hk]

theorem flatMap_wordBytes_length (ws : List Word) : (ws.flatMap wordBytes).length = 4 * ws.length := by
  induction ws with
  | nil => rfl
  | cons w ws ih =>
    rw [List.flatMap_cons, List.length_append, ih, List.length_cons]
    simp [wordBytes]; omega

/-- A data phase of ceil(l / 4) words carries l bytes (R72, R73). -/
theorem dataBytes_length (l : Nat) (ws : List Word) (h : ws.length = (l + 3) / 4) : (dataBytes l ws).length = l := by
  rw [dataBytes, List.length_take, flatMap_wordBytes_length, h]; omega

/-! ### What the decoder answers -/

/-- A legal opcode, its data words present and its reserved bits clear: the command, and the words after it. -/
theorem decode_accepts (o : Opc) (w : Word) (ds rest : List Word) (hw : opcField w = o.code)
    (hd : ds.length = o.dataWords (immField w)) (hr : o.reservedClear w = true) :
    decode (w :: (ds ++ rest)) = .instr (o.instr (immField w) ds) rest := by
  simp only [decode, hw, Opc.ofCode_code]
  rw [if_neg (by simp; omega), if_pos hr, ← hd]
  simp

/-- A legal opcode, its data words present and a reserved bit set: rejected, the words after it kept. -/
theorem decode_rejects (o : Opc) (w : Word) (ds rest : List Word) (hw : opcField w = o.code)
    (hd : ds.length = o.dataWords (immField w)) (hr : o.reservedClear w = false) :
    decode (w :: (ds ++ rest)) = .rejected (.reservedField o) rest := by
  simp only [decode, hw, Opc.ofCode_code]
  rw [if_neg (by simp; omega), if_neg (by simp [hr]), ← hd]
  simp

/-- Everything an accepted command says of the words it came from. -/
theorem decode_instr_inv {ws rest : List Word} {i : Instr} (h : decode ws = .instr i rest) :
    ∃ (o : Opc) (w : Word) (ds : List Word), ws = w :: (ds ++ rest) ∧ opcField w = o.code
      ∧ ds.length = o.dataWords (immField w) ∧ o.reservedClear w = true ∧ i = o.instr (immField w) ds := by
  cases ws with
  | nil => simp [decode] at h
  | cons w tl =>
    simp only [decode] at h
    cases ho : Opc.ofCode (opcField w) with
    | none => simp [ho] at h
    | some o =>
      simp only [ho] at h
      split_ifs at h with h1 h2
      injection h with h3 h4
      exact ⟨o, w, tl.take (o.dataWords (immField w)), by simp [← h4], (Opc.code_of_ofCode ho).symm,
        by simp; omega, h2, h3.symm⟩

/-- Masking off the low n bits of a 32-bit number. -/
theorem and_high_mask (a n : Nat) (ha : a < 2 ^ 32) (hn : n ≤ 32) :
    a &&& (2 ^ (32 - n) - 1) * 2 ^ n = a / 2 ^ n * 2 ^ n := by
  apply Nat.eq_of_testBit_eq
  intro k
  rw [Nat.testBit_and, Nat.testBit_mul_two_pow, Nat.testBit_mul_two_pow, Nat.testBit_two_pow_sub_one,
    Nat.testBit_div_two_pow]
  by_cases hk : n ≤ k
  · rw [Nat.sub_add_cancel hk]
    by_cases h32 : k < 32
    · simp [hk]; omega
    · have : a.testBit k = false := Nat.testBit_lt_two_pow (lt_of_lt_of_le ha (Nat.pow_le_pow_right (by omega) (by omega)))
      simp [this]
  · simp [hk]

theorem form_mask_toNat (f : Form) (w : Word) : (w &&& f.mask).toNat = match f with
    | .none => w.toNat
    | .reg => w.toNat / 2 ^ 8 * 2 ^ 8
    | .word | .len => w.toNat / 2 ^ 16 * 2 ^ 16 := by
  rw [BitVec.toNat_and]
  cases f
  · simpa [Form.mask] using and_high_mask w.toNat 0 w.isLt (by omega)
  · exact and_high_mask w.toNat 16 w.isLt (by omega)
  · exact and_high_mask w.toNat 8 w.isLt (by omega)
  · exact and_high_mask w.toNat 16 w.isLt (by omega)

/-- The reserved bits of a row are RSV, and what its form says must be zero (R78, R80). -/
theorem reservedClear_iff (o : Opc) (w : Word) (hw : opcField w = o.code) :
    o.reservedClear w = true ↔ w.toNat / 2 ^ 16 % 2 ^ 8 = 0 ∧ (o.form = .none → w.toNat % 2 ^ 16 = 0)
      ∧ (o.form = .reg → w.toNat / 2 ^ 8 % 2 ^ 8 = 0) := by
  have hop : w.toNat / 2 ^ 24 = o.code.toNat := by rw [← opcField_toNat, hw]
  have hm := w.isLt
  have h := form_mask_toNat o.form w
  rw [Opc.reservedClear, decide_eq_true_iff, ← BitVec.toNat_inj, commandWord_toNat, ← hop, h]
  cases o.form <;> simp <;> omega

end Sys2Proof
end

