-- ==== Sys2Proof/Laws/Memory.lean ====
section
/-! SUPPORT. The laws of the source buffer: a read after a write, the canonical form, and what writing a byte string
after the last byte held does. -/

namespace Sys2Proof.Machine

theorem Memory.write_keys (m : Memory) (a : Nat) (b : Byte) :
    ∀ x ∈ m.write a b, x = (a, b) ∨ x ∈ m := by
  induction m with
  | nil => simp [Memory.write]
  | cons y rest ih =>
    obtain ⟨k, v⟩ := y
    intro x hx
    simp only [Memory.write] at hx
    split_ifs at hx with h1 h2 <;> simp only [List.mem_cons] at hx ⊢
    · tauto
    · tauto
    · rcases hx with h | h
      · tauto
      · rcases ih x h with h | h <;> tauto

/-- A write keeps the canonical form. -/
theorem Memory.write_wf (m : Memory) (a : Nat) (b : Byte) (h : m.wf) : (m.write a b).wf := by
  induction m with
  | nil => simp [Memory.write, Memory.wf]
  | cons y rest ih =>
    obtain ⟨k, v⟩ := y
    simp only [Memory.wf, List.pairwise_cons] at h ⊢
    simp only [Memory.write]
    split_ifs with h1 h2
    · refine List.pairwise_cons.2 ⟨?_, List.pairwise_cons.2 h⟩
      intro z hz
      rcases List.mem_cons.1 hz with rfl | hz
      · exact h1
      · exact lt_trans h1 (h.1 z hz)
    · subst h2
      exact List.pairwise_cons.2 h
    · refine List.pairwise_cons.2 ⟨?_, ih h.2⟩
      intro z hz
      rcases Memory.write_keys rest a b z hz with rfl | hz
      · dsimp only; omega
      · exact h.1 z hz

/-- Writing a byte string keeps the canonical form. -/
theorem Memory.writeBytes_wf (bs : Bytes) : ∀ (m : Memory) (a : Nat), m.wf → (m.writeBytes a bs).wf := by
  induction bs with
  | nil => exact fun _ _ h => h
  | cons b bs ih => exact fun m a h => ih _ _ (Memory.write_wf m a b h)

theorem Memory.read_nil (c : Nat) : Memory.read [] c = Config.srcUnwritten c := rfl

theorem Memory.read_cons (k : Nat) (v : Byte) (m : Memory) (c : Nat) :
    Memory.read ((k, v) :: m) c = if c = k then v else Memory.read m c := by
  unfold Memory.read
  rw [List.lookup_cons]
  by_cases h : c = k
  · simp [h]
  · have : (c == k) = false := by simpa using h
    rw [this, if_neg h]

/-- A read after a write: the byte written at its address, every other address as before. -/
theorem Memory.read_write (m : Memory) (a c : Nat) (b : Byte) :
    (m.write a b).read c = if c = a then b else m.read c := by
  induction m with
  | nil => rw [Memory.write, Memory.read_cons]
  | cons y rest ih =>
    obtain ⟨k, v⟩ := y
    rw [Memory.write]
    by_cases h1 : a < k
    · rw [if_pos h1, Memory.read_cons]
    · rw [if_neg h1]
      by_cases h2 : a = k
      · rw [if_pos h2, Memory.read_cons, Memory.read_cons, h2]
        split_ifs <;> rfl
      · rw [if_neg h2, Memory.read_cons, ih, Memory.read_cons]
        by_cases hk : c = k
        · rw [if_pos hk, if_pos hk, if_neg (by omega)]
        · rw [if_neg hk, if_neg hk]

/-- A read after writing a byte string. -/
theorem Memory.read_writeBytes (bs : Bytes) : ∀ (m : Memory) (a c : Nat),
    (m.writeBytes a bs).read c = if a ≤ c ∧ c < a + bs.length then bs.getD (c - a) 0 else m.read c := by
  induction bs with
  | nil => intro m a c; simp [Memory.writeBytes]
  | cons b bs ih =>
    intro m a c
    rw [Memory.writeBytes, ih, Memory.read_write m a c b]
    simp only [List.length_cons]
    by_cases hc : c = a
    · subst hc; simp
    · by_cases h1 : a ≤ c
      · obtain ⟨k, rfl⟩ : ∃ k, c = a + 1 + k := ⟨c - (a + 1), by omega⟩
        have e1 : a + 1 + k - (a + 1) = k := by omega
        have e2 : a + 1 + k - a = k + 1 := by omega
        simp only [e1, e2, List.getD_cons_succ, hc, if_false]
        congr 1
        apply propext; omega
      · rw [if_neg (by omega), if_neg hc, if_neg (by omega)]

/-- Writing one byte after the last one held appends it. -/
theorem Memory.write_append (m : Memory) (a : Nat) (b : Byte) (h : ∀ x ∈ m, x.1 < a) :
    m.write a b = m ++ [(a, b)] := by
  induction m with
  | nil => rfl
  | cons y rest ih =>
    have h1 := h y (by simp)
    obtain ⟨k, v⟩ := y
    dsimp only at h1
    rw [Memory.write, if_neg (by omega), if_neg (by omega), ih fun x hx => h x (by simp [hx])]
    rfl

/-- The addresses held after writing a byte string at the end of what is held. -/
theorem Memory.writeBytes_keys (bs : Bytes) : ∀ (m : Memory) (a : Nat), m.map Prod.fst = List.range a →
    (m.writeBytes a bs).map Prod.fst = List.range (a + bs.length) := by
  induction bs with
  | nil => intro m a h; simpa [Memory.writeBytes] using h
  | cons b bs ih =>
    intro m a h
    have hlt : ∀ x ∈ m, x.1 < a := fun x hx =>
      List.mem_range.1 (h ▸ List.mem_map_of_mem (f := Prod.fst) hx)
    rw [Memory.writeBytes, ih _ _ (by rw [Memory.write_append m a b hlt, List.map_append, h]; simp [List.range_succ])]
    simp [Nat.add_assoc, Nat.add_comm]

/-- A memory that holds exactly an initial segment of the addresses is in canonical form. -/
theorem Memory.wf_of_keys (m : Memory) (n : Nat) (h : m.map Prod.fst = List.range n) : m.wf := by
  have : (m.map Prod.fst).Pairwise (· < ·) := h ▸ List.pairwise_lt_range
  simpa [Memory.wf, List.pairwise_map] using this

@[simp] theorem Memory.readBytes_length (m : Memory) (a n : Nat) : (m.readBytes a n).length = n := by
  simp [Memory.readBytes]

end Sys2Proof.Machine
end

