-- ==== Sys2Proof/Laws/State.lean ====
section
/-! SUPPORT. One lemma per field of State for each update the commands share, and per field of the sender for its timer
updates: no later proof unfolds a record update. -/

namespace Sys2Proof.Machine

@[simp] theorem refuse_params (c : RefuseCause) (s : State) : (refuse c s).params = s.params := rfl
@[simp] theorem refuse_err (c : RefuseCause) (s : State) : (refuse c s).err = errOfRefusal c := rfl
@[simp] theorem refuse_snd (c : RefuseCause) (s : State) : (refuse c s).snd = s.snd := rfl
@[simp] theorem refuse_rcv (c : RefuseCause) (s : State) : (refuse c s).rcv = s.rcv := rfl
@[simp] theorem refuse_csu (c : RefuseCause) (s : State) : (refuse c s).csu = s.csu := rfl
@[simp] theorem refuse_stx (c : RefuseCause) (s : State) : (refuse c s).stx = s.stx := rfl
@[simp] theorem refuse_rtx (c : RefuseCause) (s : State) : (refuse c s).rtx = s.rtx := rfl
@[simp] theorem refuse_sink (c : RefuseCause) (s : State) : (refuse c s).sink = s.sink := rfl
@[simp] theorem refuse_rsp (c : RefuseCause) (s : State) : (refuse c s).rsp = s.rsp := rfl
@[simp] theorem refuse_port (c : RefuseCause) (s : State) : (refuse c s).port = s.port := rfl
@[simp] theorem refuse_resetIn (c : RefuseCause) (s : State) : (refuse c s).resetIn = s.resetIn := rfl

@[simp] theorem emitStx_params (f : Bytes) (s : State) : (emitStx f s).params = s.params := rfl
@[simp] theorem emitStx_err (f : Bytes) (s : State) : (emitStx f s).err = s.err := rfl
@[simp] theorem emitStx_snd (f : Bytes) (s : State) : (emitStx f s).snd = s.snd := rfl
@[simp] theorem emitStx_rcv (f : Bytes) (s : State) : (emitStx f s).rcv = s.rcv := rfl
@[simp] theorem emitStx_csu (f : Bytes) (s : State) : (emitStx f s).csu = s.csu := rfl
@[simp] theorem emitStx_stx (f : Bytes) (s : State) : (emitStx f s).stx = s.stx ++ [f] := rfl
@[simp] theorem emitStx_rtx (f : Bytes) (s : State) : (emitStx f s).rtx = s.rtx := rfl
@[simp] theorem emitStx_sink (f : Bytes) (s : State) : (emitStx f s).sink = s.sink := rfl
@[simp] theorem emitStx_rsp (f : Bytes) (s : State) : (emitStx f s).rsp = s.rsp := rfl
@[simp] theorem emitStx_port (f : Bytes) (s : State) : (emitStx f s).port = s.port := rfl
@[simp] theorem emitStx_resetIn (f : Bytes) (s : State) : (emitStx f s).resetIn = s.resetIn := rfl

@[simp] theorem emitRtx_params (f : Bytes) (s : State) : (emitRtx f s).params = s.params := rfl
@[simp] theorem emitRtx_err (f : Bytes) (s : State) : (emitRtx f s).err = s.err := rfl
@[simp] theorem emitRtx_snd (f : Bytes) (s : State) : (emitRtx f s).snd = s.snd := rfl
@[simp] theorem emitRtx_rcv (f : Bytes) (s : State) : (emitRtx f s).rcv = s.rcv := rfl
@[simp] theorem emitRtx_csu (f : Bytes) (s : State) : (emitRtx f s).csu = s.csu := rfl
@[simp] theorem emitRtx_stx (f : Bytes) (s : State) : (emitRtx f s).stx = s.stx := rfl
@[simp] theorem emitRtx_rtx (f : Bytes) (s : State) : (emitRtx f s).rtx = s.rtx ++ [f] := rfl
@[simp] theorem emitRtx_sink (f : Bytes) (s : State) : (emitRtx f s).sink = s.sink := rfl
@[simp] theorem emitRtx_rsp (f : Bytes) (s : State) : (emitRtx f s).rsp = s.rsp := rfl
@[simp] theorem emitRtx_port (f : Bytes) (s : State) : (emitRtx f s).port = s.port := rfl
@[simp] theorem emitRtx_resetIn (f : Bytes) (s : State) : (emitRtx f s).resetIn = s.resetIn := rfl

@[simp] theorem emitSink_params (x : SinkItem) (s : State) : (emitSink x s).params = s.params := rfl
@[simp] theorem emitSink_err (x : SinkItem) (s : State) : (emitSink x s).err = s.err := rfl
@[simp] theorem emitSink_snd (x : SinkItem) (s : State) : (emitSink x s).snd = s.snd := rfl
@[simp] theorem emitSink_rcv (x : SinkItem) (s : State) : (emitSink x s).rcv = s.rcv := rfl
@[simp] theorem emitSink_csu (x : SinkItem) (s : State) : (emitSink x s).csu = s.csu := rfl
@[simp] theorem emitSink_stx (x : SinkItem) (s : State) : (emitSink x s).stx = s.stx := rfl
@[simp] theorem emitSink_rtx (x : SinkItem) (s : State) : (emitSink x s).rtx = s.rtx := rfl
@[simp] theorem emitSink_sink (x : SinkItem) (s : State) : (emitSink x s).sink = s.sink ++ [x] := rfl
@[simp] theorem emitSink_rsp (x : SinkItem) (s : State) : (emitSink x s).rsp = s.rsp := rfl
@[simp] theorem emitSink_port (x : SinkItem) (s : State) : (emitSink x s).port = s.port := rfl
@[simp] theorem emitSink_resetIn (x : SinkItem) (s : State) : (emitSink x s).resetIn = s.resetIn := rfl

@[simp] theorem emitRsp_params (w : Word) (s : State) : (emitRsp w s).params = s.params := rfl
@[simp] theorem emitRsp_err (w : Word) (s : State) : (emitRsp w s).err = s.err := rfl
@[simp] theorem emitRsp_snd (w : Word) (s : State) : (emitRsp w s).snd = s.snd := rfl
@[simp] theorem emitRsp_rcv (w : Word) (s : State) : (emitRsp w s).rcv = s.rcv := rfl
@[simp] theorem emitRsp_csu (w : Word) (s : State) : (emitRsp w s).csu = s.csu := rfl
@[simp] theorem emitRsp_stx (w : Word) (s : State) : (emitRsp w s).stx = s.stx := rfl
@[simp] theorem emitRsp_rtx (w : Word) (s : State) : (emitRsp w s).rtx = s.rtx := rfl
@[simp] theorem emitRsp_sink (w : Word) (s : State) : (emitRsp w s).sink = s.sink := rfl
@[simp] theorem emitRsp_rsp (w : Word) (s : State) : (emitRsp w s).rsp = s.rsp ++ [w] := rfl
@[simp] theorem emitRsp_port (w : Word) (s : State) : (emitRsp w s).port = s.port := rfl
@[simp] theorem emitRsp_resetIn (w : Word) (s : State) : (emitRsp w s).resetIn = s.resetIn := rfl

@[simp] theorem sendAck_params (s : State) : (sendAck s).params = s.params := rfl
@[simp] theorem sendAck_err (s : State) : (sendAck s).err = s.err := rfl
@[simp] theorem sendAck_snd (s : State) : (sendAck s).snd = s.snd := rfl
@[simp] theorem sendAck_rcv (s : State) : (sendAck s).rcv = s.rcv := rfl
@[simp] theorem sendAck_csu (s : State) : (sendAck s).csu = s.csu := rfl
@[simp] theorem sendAck_stx (s : State) : (sendAck s).stx = s.stx := rfl
@[simp] theorem sendAck_rtx (s : State) : (sendAck s).rtx = s.rtx ++ [ackFrame s.params (s.rcv.expected - 1)] := rfl
@[simp] theorem sendAck_sink (s : State) : (sendAck s).sink = s.sink := rfl
@[simp] theorem sendAck_rsp (s : State) : (sendAck s).rsp = s.rsp := rfl
@[simp] theorem sendAck_port (s : State) : (sendAck s).port = s.port := rfl
@[simp] theorem sendAck_resetIn (s : State) : (sendAck s).resetIn = s.resetIn := rfl

@[simp] theorem fatalSnd_params (c : FatalCause) (s : State) : (fatalSnd c s).params = s.params := rfl
@[simp] theorem fatalSnd_err (c : FatalCause) (s : State) : (fatalSnd c s).err = s.err := rfl
@[simp] theorem fatalSnd_snd (c : FatalCause) (s : State) : (fatalSnd c s).snd = disarmTimer { s.snd with st := .error c } := rfl
@[simp] theorem fatalSnd_rcv (c : FatalCause) (s : State) : (fatalSnd c s).rcv = s.rcv := rfl
@[simp] theorem fatalSnd_csu (c : FatalCause) (s : State) : (fatalSnd c s).csu = s.csu := rfl
@[simp] theorem fatalSnd_stx (c : FatalCause) (s : State) : (fatalSnd c s).stx = s.stx := rfl
@[simp] theorem fatalSnd_rtx (c : FatalCause) (s : State) : (fatalSnd c s).rtx = s.rtx := rfl
@[simp] theorem fatalSnd_sink (c : FatalCause) (s : State) : (fatalSnd c s).sink = s.sink := rfl
@[simp] theorem fatalSnd_rsp (c : FatalCause) (s : State) : (fatalSnd c s).rsp = s.rsp := rfl
@[simp] theorem fatalSnd_port (c : FatalCause) (s : State) : (fatalSnd c s).port = s.port := rfl
@[simp] theorem fatalSnd_resetIn (c : FatalCause) (s : State) : (fatalSnd c s).resetIn = s.resetIn := rfl

@[simp] theorem fatalRcv_params (c : FatalCause) (s : State) : (fatalRcv c s).params = s.params := rfl
@[simp] theorem fatalRcv_err (c : FatalCause) (s : State) : (fatalRcv c s).err = s.err := rfl
@[simp] theorem fatalRcv_snd (c : FatalCause) (s : State) : (fatalRcv c s).snd = s.snd := rfl
@[simp] theorem fatalRcv_rcv (c : FatalCause) (s : State) : (fatalRcv c s).rcv = { s.rcv with st := .error c, twcnt := 0 } := rfl
@[simp] theorem fatalRcv_csu (c : FatalCause) (s : State) : (fatalRcv c s).csu = s.csu := rfl
@[simp] theorem fatalRcv_stx (c : FatalCause) (s : State) : (fatalRcv c s).stx = s.stx := rfl
@[simp] theorem fatalRcv_rtx (c : FatalCause) (s : State) : (fatalRcv c s).rtx = s.rtx := rfl
@[simp] theorem fatalRcv_sink (c : FatalCause) (s : State) : (fatalRcv c s).sink = s.sink := rfl
@[simp] theorem fatalRcv_rsp (c : FatalCause) (s : State) : (fatalRcv c s).rsp = s.rsp := rfl
@[simp] theorem fatalRcv_port (c : FatalCause) (s : State) : (fatalRcv c s).port = s.port := rfl
@[simp] theorem fatalRcv_resetIn (c : FatalCause) (s : State) : (fatalRcv c s).resetIn = s.resetIn := rfl

@[simp] theorem clearSession_params (s : State) : (clearSession s).params = s.params := rfl
@[simp] theorem clearSession_err (s : State) : (clearSession s).err = s.err := rfl
@[simp] theorem clearSession_snd (s : State) : (clearSession s).snd = disarmTimer
    { s.snd with st := .idle, base := 0, next := 0, numpkt := 0, srclen := 0, src := [] } := rfl
@[simp] theorem clearSession_rcv (s : State) : (clearSession s).rcv = s.rcv := rfl
@[simp] theorem clearSession_csu (s : State) : (clearSession s).csu = s.csu := rfl
@[simp] theorem clearSession_stx (s : State) : (clearSession s).stx = s.stx := rfl
@[simp] theorem clearSession_rtx (s : State) : (clearSession s).rtx = s.rtx := rfl
@[simp] theorem clearSession_sink (s : State) : (clearSession s).sink = s.sink := rfl
@[simp] theorem clearSession_rsp (s : State) : (clearSession s).rsp = s.rsp := rfl
@[simp] theorem clearSession_port (s : State) : (clearSession s).port = s.port := rfl
@[simp] theorem clearSession_resetIn (s : State) : (clearSession s).resetIn = s.resetIn := rfl

@[simp] theorem clearRecv_params (s : State) : (clearRecv s).params = s.params := rfl
@[simp] theorem clearRecv_err (s : State) : (clearRecv s).err = s.err := rfl
@[simp] theorem clearRecv_snd (s : State) : (clearRecv s).snd = s.snd := rfl
@[simp] theorem clearRecv_rcv (s : State) : (clearRecv s).rcv = { s.rcv with st := .idle, expected := 0, lastkind := 0xFF, twcnt := 0 } := rfl
@[simp] theorem clearRecv_csu (s : State) : (clearRecv s).csu = s.csu := rfl
@[simp] theorem clearRecv_stx (s : State) : (clearRecv s).stx = s.stx := rfl
@[simp] theorem clearRecv_rtx (s : State) : (clearRecv s).rtx = s.rtx := rfl
@[simp] theorem clearRecv_sink (s : State) : (clearRecv s).sink = s.sink := rfl
@[simp] theorem clearRecv_rsp (s : State) : (clearRecv s).rsp = s.rsp := rfl
@[simp] theorem clearRecv_port (s : State) : (clearRecv s).port = s.port := rfl
@[simp] theorem clearRecv_resetIn (s : State) : (clearRecv s).resetIn = s.resetIn := rfl

@[simp] theorem applyReset_params (s : State) : (applyReset s).params = s.params := rfl
@[simp] theorem applyReset_err (s : State) : (applyReset s).err = .clear := rfl
@[simp] theorem applyReset_snd (s : State) : (applyReset s).snd = .reset s.params := rfl
@[simp] theorem applyReset_rcv (s : State) : (applyReset s).rcv = .reset s.params := rfl
@[simp] theorem applyReset_csu (s : State) : (applyReset s).csu = .reset := rfl
@[simp] theorem applyReset_stx (s : State) : (applyReset s).stx = s.stx := rfl
@[simp] theorem applyReset_rtx (s : State) : (applyReset s).rtx = s.rtx := rfl
@[simp] theorem applyReset_sink (s : State) : (applyReset s).sink = s.sink := rfl
@[simp] theorem applyReset_rsp (s : State) : (applyReset s).rsp = s.rsp := rfl
@[simp] theorem applyReset_port (s : State) : (applyReset s).port = s.port := rfl
@[simp] theorem applyReset_resetIn (s : State) : (applyReset s).resetIn = s.resetIn := rfl

@[simp] theorem resetInput_params (s : State) : (resetInput s).params = s.params := rfl
@[simp] theorem resetInput_err (s : State) : (resetInput s).err = .clear := rfl
@[simp] theorem resetInput_snd (s : State) : (resetInput s).snd = .reset s.params := rfl
@[simp] theorem resetInput_rcv (s : State) : (resetInput s).rcv = .reset s.params := rfl
@[simp] theorem resetInput_csu (s : State) : (resetInput s).csu = .reset := rfl
@[simp] theorem resetInput_stx (s : State) : (resetInput s).stx = s.stx := rfl
@[simp] theorem resetInput_rtx (s : State) : (resetInput s).rtx = s.rtx := rfl
@[simp] theorem resetInput_sink (s : State) : (resetInput s).sink = s.sink := rfl
@[simp] theorem resetInput_rsp (s : State) : (resetInput s).rsp = s.rsp := rfl
@[simp] theorem resetInput_port (s : State) : (resetInput s).port = s.port := rfl
@[simp] theorem resetInput_resetIn (s : State) : (resetInput s).resetIn = false := rfl

@[simp] theorem takeWords_params (rest : List Word) (s : State) : (takeWords rest s).params = s.params := rfl
@[simp] theorem takeWords_err (rest : List Word) (s : State) : (takeWords rest s).err = s.err := rfl
@[simp] theorem takeWords_snd (rest : List Word) (s : State) : (takeWords rest s).snd = s.snd := rfl
@[simp] theorem takeWords_rcv (rest : List Word) (s : State) : (takeWords rest s).rcv = s.rcv := rfl
@[simp] theorem takeWords_csu (rest : List Word) (s : State) : (takeWords rest s).csu = s.csu := rfl
@[simp] theorem takeWords_stx (rest : List Word) (s : State) : (takeWords rest s).stx = s.stx := rfl
@[simp] theorem takeWords_rtx (rest : List Word) (s : State) : (takeWords rest s).rtx = s.rtx := rfl
@[simp] theorem takeWords_sink (rest : List Word) (s : State) : (takeWords rest s).sink = s.sink := rfl
@[simp] theorem takeWords_rsp (rest : List Word) (s : State) : (takeWords rest s).rsp = s.rsp := rfl
@[simp] theorem takeWords_port (rest : List Word) (s : State) : (takeWords rest s).port = rest := rfl
@[simp] theorem takeWords_resetIn (rest : List Word) (s : State) : (takeWords rest s).resetIn = s.resetIn := rfl

@[simp] theorem placeWords_params (ws : List Word) (s : State) : (placeWords ws s).params = s.params := rfl
@[simp] theorem placeWords_err (ws : List Word) (s : State) : (placeWords ws s).err = s.err := rfl
@[simp] theorem placeWords_snd (ws : List Word) (s : State) : (placeWords ws s).snd = s.snd := rfl
@[simp] theorem placeWords_rcv (ws : List Word) (s : State) : (placeWords ws s).rcv = s.rcv := rfl
@[simp] theorem placeWords_csu (ws : List Word) (s : State) : (placeWords ws s).csu = s.csu := rfl
@[simp] theorem placeWords_stx (ws : List Word) (s : State) : (placeWords ws s).stx = s.stx := rfl
@[simp] theorem placeWords_rtx (ws : List Word) (s : State) : (placeWords ws s).rtx = s.rtx := rfl
@[simp] theorem placeWords_sink (ws : List Word) (s : State) : (placeWords ws s).sink = s.sink := rfl
@[simp] theorem placeWords_rsp (ws : List Word) (s : State) : (placeWords ws s).rsp = s.rsp := rfl
@[simp] theorem placeWords_port (ws : List Word) (s : State) : (placeWords ws s).port = ws ++ s.port := rfl
@[simp] theorem placeWords_resetIn (ws : List Word) (s : State) : (placeWords ws s).resetIn = false := rfl

@[simp] theorem loadSource_params (a : Nat) (d : Bytes) (s : State) : (loadSource a d s).params = s.params := rfl
@[simp] theorem loadSource_err (a : Nat) (d : Bytes) (s : State) : (loadSource a d s).err = s.err := rfl
@[simp] theorem loadSource_snd (a : Nat) (d : Bytes) (s : State) : (loadSource a d s).snd = { s.snd with
    src := s.snd.src.writeBytes a d, srclen := BitVec.ofNat 32 (a + d.length), st := .loading } := rfl
@[simp] theorem loadSource_rcv (a : Nat) (d : Bytes) (s : State) : (loadSource a d s).rcv = s.rcv := rfl
@[simp] theorem loadSource_csu (a : Nat) (d : Bytes) (s : State) : (loadSource a d s).csu = s.csu := rfl
@[simp] theorem loadSource_stx (a : Nat) (d : Bytes) (s : State) : (loadSource a d s).stx = s.stx := rfl
@[simp] theorem loadSource_rtx (a : Nat) (d : Bytes) (s : State) : (loadSource a d s).rtx = s.rtx := rfl
@[simp] theorem loadSource_sink (a : Nat) (d : Bytes) (s : State) : (loadSource a d s).sink = s.sink := rfl
@[simp] theorem loadSource_rsp (a : Nat) (d : Bytes) (s : State) : (loadSource a d s).rsp = s.rsp := rfl
@[simp] theorem loadSource_port (a : Nat) (d : Bytes) (s : State) : (loadSource a d s).port = s.port := rfl
@[simp] theorem loadSource_resetIn (a : Nat) (d : Bytes) (s : State) : (loadSource a d s).resetIn = s.resetIn := rfl

@[simp] theorem fillAdvance_params (s : State) : (fillAdvance s).params = s.params := rfl
@[simp] theorem fillAdvance_err (s : State) : (fillAdvance s).err = s.err := rfl
@[simp] theorem fillAdvance_snd (s : State) : (fillAdvance s).snd = { s.snd with next := s.snd.next + 1 } := rfl
@[simp] theorem fillAdvance_rcv (s : State) : (fillAdvance s).rcv = s.rcv := rfl
@[simp] theorem fillAdvance_csu (s : State) : (fillAdvance s).csu = s.csu := rfl
@[simp] theorem fillAdvance_stx (s : State) : (fillAdvance s).stx = s.stx := rfl
@[simp] theorem fillAdvance_rtx (s : State) : (fillAdvance s).rtx = s.rtx := rfl
@[simp] theorem fillAdvance_sink (s : State) : (fillAdvance s).sink = s.sink := rfl
@[simp] theorem fillAdvance_rsp (s : State) : (fillAdvance s).rsp = s.rsp := rfl
@[simp] theorem fillAdvance_port (s : State) : (fillAdvance s).port = s.port := rfl
@[simp] theorem fillAdvance_resetIn (s : State) : (fillAdvance s).resetIn = s.resetIn := rfl

@[simp] theorem armTimer_wsize (g : Sender) : (armTimer g).wsize = g.wsize := rfl
@[simp] theorem armTimer_rto (g : Sender) : (armTimer g).rto = g.rto := rfl
@[simp] theorem armTimer_maxpay (g : Sender) : (armTimer g).maxpay = g.maxpay := rfl
@[simp] theorem armTimer_st (g : Sender) : (armTimer g).st = g.st := rfl
@[simp] theorem armTimer_base (g : Sender) : (armTimer g).base = g.base := rfl
@[simp] theorem armTimer_next (g : Sender) : (armTimer g).next = g.next := rfl
@[simp] theorem armTimer_numpkt (g : Sender) : (armTimer g).numpkt = g.numpkt := rfl
@[simp] theorem armTimer_srclen (g : Sender) : (armTimer g).srclen = g.srclen := rfl
@[simp] theorem armTimer_armed (g : Sender) : (armTimer g).armed = true := rfl
@[simp] theorem armTimer_stcnt (g : Sender) : (armTimer g).stcnt = 0 := rfl
@[simp] theorem armTimer_src (g : Sender) : (armTimer g).src = g.src := rfl

@[simp] theorem disarmTimer_wsize (g : Sender) : (disarmTimer g).wsize = g.wsize := rfl
@[simp] theorem disarmTimer_rto (g : Sender) : (disarmTimer g).rto = g.rto := rfl
@[simp] theorem disarmTimer_maxpay (g : Sender) : (disarmTimer g).maxpay = g.maxpay := rfl
@[simp] theorem disarmTimer_st (g : Sender) : (disarmTimer g).st = g.st := rfl
@[simp] theorem disarmTimer_base (g : Sender) : (disarmTimer g).base = g.base := rfl
@[simp] theorem disarmTimer_next (g : Sender) : (disarmTimer g).next = g.next := rfl
@[simp] theorem disarmTimer_numpkt (g : Sender) : (disarmTimer g).numpkt = g.numpkt := rfl
@[simp] theorem disarmTimer_srclen (g : Sender) : (disarmTimer g).srclen = g.srclen := rfl
@[simp] theorem disarmTimer_armed (g : Sender) : (disarmTimer g).armed = false := rfl
@[simp] theorem disarmTimer_stcnt (g : Sender) : (disarmTimer g).stcnt = 0 := rfl
@[simp] theorem disarmTimer_src (g : Sender) : (disarmTimer g).src = g.src := rfl

@[simp] theorem fillArm_params (s : State) : (fillArm s).params = s.params := by unfold fillArm; split <;> rfl
@[simp] theorem fillArm_err (s : State) : (fillArm s).err = s.err := by unfold fillArm; split <;> rfl
@[simp] theorem fillArm_rcv (s : State) : (fillArm s).rcv = s.rcv := by unfold fillArm; split <;> rfl
@[simp] theorem fillArm_csu (s : State) : (fillArm s).csu = s.csu := by unfold fillArm; split <;> rfl
@[simp] theorem fillArm_stx (s : State) : (fillArm s).stx = s.stx := by unfold fillArm; split <;> rfl
@[simp] theorem fillArm_rtx (s : State) : (fillArm s).rtx = s.rtx := by unfold fillArm; split <;> rfl
@[simp] theorem fillArm_sink (s : State) : (fillArm s).sink = s.sink := by unfold fillArm; split <;> rfl
@[simp] theorem fillArm_rsp (s : State) : (fillArm s).rsp = s.rsp := by unfold fillArm; split <;> rfl
@[simp] theorem fillArm_port (s : State) : (fillArm s).port = s.port := by unfold fillArm; split <;> rfl
@[simp] theorem fillArm_resetIn (s : State) : (fillArm s).resetIn = s.resetIn := by unfold fillArm; split <;> rfl
@[simp] theorem fillArm_snd (s : State) : (fillArm s).snd = if s.snd.base = s.snd.next then armTimer s.snd else s.snd := by
  unfold fillArm; split <;> rfl

@[simp] theorem resetWith_params (p : Params) : (State.resetWith p).params = p := rfl
@[simp] theorem resetWith_err (p : Params) : (State.resetWith p).err = .clear := rfl
@[simp] theorem resetWith_snd (p : Params) : (State.resetWith p).snd = .reset p := rfl
@[simp] theorem resetWith_rcv (p : Params) : (State.resetWith p).rcv = .reset p := rfl
@[simp] theorem resetWith_csu (p : Params) : (State.resetWith p).csu = .reset := rfl
@[simp] theorem resetWith_stx (p : Params) : (State.resetWith p).stx = [] := rfl
@[simp] theorem resetWith_rtx (p : Params) : (State.resetWith p).rtx = [] := rfl
@[simp] theorem resetWith_sink (p : Params) : (State.resetWith p).sink = [] := rfl
@[simp] theorem resetWith_rsp (p : Params) : (State.resetWith p).rsp = [] := rfl
@[simp] theorem resetWith_port (p : Params) : (State.resetWith p).port = [] := rfl
@[simp] theorem resetWith_resetIn (p : Params) : (State.resetWith p).resetIn = false := rfl

end Sys2Proof.Machine
end

