-- ==== Sys2Proof/Laws/Ops.lean ====
section
/-! SUPPORT. One lemma for each shared operation that says everything it does: sequencing, sending a data frame, Fill
(R140), the retransmission (R150), and the step. -/

namespace Sys2Proof.Machine

/-! ### Sequencing -/

@[simp] theorem andThen_next (s : State) (f : State → Result) : andThen (.next s) f = f s := rfl
@[simp] theorem andThen_fault (x : Fault) (f : State → Result) : andThen (.fault x) f = .fault x := rfl
@[simp] theorem andThen_refused (x : Refusal) (f : State → Result) : andThen (.refused x) f = .refused x := rfl

/-- A sequence answers a next state exactly when both parts do. -/
theorem andThen_eq_next {r : Result} {f : State → Result} {t : State} :
    andThen r f = .next t ↔ ∃ u, r = .next u ∧ f u = .next t := by
  cases r <;> simp [andThen]

/-! ### The packet view -/

/-- A data frame is made from MAXPAY, SRCLEN, NUMPKT and SRC alone (R52). -/
theorem dataFrame_congr {p : Params} {g h : Sender} (i : Nat) (h1 : g.maxpay = h.maxpay) (h2 : g.srclen = h.srclen)
    (h3 : g.numpkt = h.numpkt) (h4 : g.src = h.src) : dataFrame p g i = dataFrame p h i := by
  simp only [dataFrame, packetKind, packetPayload, packetOff, packetLen, h1, h2, h3, h4]

/-- No packet lies outside SRC while SRCLEN does not exceed SRC_CAP (R27, R51). -/
theorem packetInSrc_of_le {p : Params} {g : Sender} (h : g.srclen.toNat ≤ p.srcCap.toNat) (i : Nat) :
    packetInSrc p g i = true := by
  unfold packetInSrc packetLen
  rw [decide_eq_true_iff]
  omega

theorem sendData_next {s : State} (h : s.snd.srclen.toNat ≤ s.params.srcCap.toNat) (i : Nat) :
    sendData i s = .next (emitStx (dataFrame s.params s.snd i) s) := by
  rw [sendData, if_pos (packetInSrc_of_le h i)]

/-- If sending a data frame answers a next state, only STX has changed, by the one frame. -/
theorem sendData_inv {i : Nat} {s t : State} (h : sendData i s = .next t) :
    t = emitStx (dataFrame s.params s.snd i) s := by
  unfold sendData at h
  split_ifs at h
  exact (Host.Outcome.next.inj h).symm

/-! ### Fill and the retransmission -/

/-- The rounds of Fill in a window that is not empty: they send the frames from NEXT on and leave the timer alone. -/
theorem fillLoop_sends (k : Nat) : ∀ s : State, s.snd.srclen.toNat ≤ s.params.srcCap.toNat →
    s.snd.base.toNat < s.snd.next.toNat → s.snd.next.toNat + k < 2 ^ 32 →
    fillLoop k s = .next { s with
      snd := { s.snd with next := BitVec.ofNat 32 (s.snd.next.toNat + k) }
      stx := s.stx ++ (List.range k).map fun j => dataFrame s.params s.snd (s.snd.next.toNat + j) } := by
  induction k with
  | zero => intro s _ _ _; simp [fillLoop]
  | succ k ih =>
    intro s hs hb hn
    have hne : s.snd.base ≠ s.snd.next := fun h => by rw [h] at hb; omega
    have harm : fillArm s = s := by rw [fillArm, if_neg hne]
    have hadd : (s.snd.next + 1).toNat = s.snd.next.toNat + 1 := by rw [BitVec.toNat_add]; simp; omega
    rw [fillLoop, harm, sendData_next hs, andThen_next, ih]
    · simp only [hadd, fillAdvance, emitStx]
      rw [show s.snd.next.toNat + 1 + k = s.snd.next.toNat + (k + 1) by omega, List.range_succ_eq_map]
      simp only [List.map_cons, List.map_map, List.append_assoc, List.singleton_append, Nat.add_zero]
      congr 4
      apply List.map_congr_left
      intro j _
      simp only [Function.comp_apply, Nat.succ_eq_add_one, ← Nat.add_assoc, Nat.add_right_comm _ 1 j]
      exact dataFrame_congr _ rfl rfl rfl rfl
    · simpa using hs
    · simp only [fillAdvance_snd, emitStx_snd, hadd]; omega
    · simp only [fillAdvance_snd, emitStx_snd, hadd]; omega

/-- `Fill()` (R140) from a window inside its bounds: it sends the frames from NEXT to the limit and arms the timer when
the window was empty and something is sent. -/
theorem fill_sends (s : State) (hs : s.snd.srclen.toNat ≤ s.params.srcCap.toNat)
    (hb : s.snd.base.toNat ≤ s.snd.next.toNat) (hl : s.snd.next.toNat < fillLimit s.snd) :
    fill s = .next { s with
      snd := { s.snd with
        next := BitVec.ofNat 32 (fillLimit s.snd)
        armed := if s.snd.base = s.snd.next then true else s.snd.armed
        stcnt := if s.snd.base = s.snd.next then 0 else s.snd.stcnt }
      stx := s.stx ++ (List.range (fillLimit s.snd - s.snd.next.toNat)).map
        fun j => dataFrame s.params s.snd (s.snd.next.toNat + j) } := by
  have hlim : fillLimit s.snd < 2 ^ 32 := by
    have := s.snd.numpkt.isLt
    unfold fillLimit; omega
  by_cases hne : s.snd.base = s.snd.next
  · obtain ⟨k, hk⟩ : ∃ k, fillLimit s.snd - s.snd.next.toNat = k + 1 := ⟨fillLimit s.snd - s.snd.next.toNat - 1, by omega⟩
    have harm : fillArm s = { s with snd := armTimer s.snd } := by rw [fillArm, if_pos hne]
    have hadd : (s.snd.next + 1).toNat = s.snd.next.toNat + 1 := by rw [BitVec.toNat_add]; simp; omega
    rw [fill, hk, fillLoop, harm, sendData_next (by simpa using hs), andThen_next, fillLoop_sends]
    · simp only [armTimer_next, hadd, fillAdvance, emitStx]
      rw [show s.snd.next.toNat + 1 + k = fillLimit s.snd by omega, List.range_succ_eq_map]
      simp only [List.map_cons, List.map_map, List.append_assoc, List.singleton_append, Nat.add_zero, armTimer, if_pos hne]
      congr 4
      apply List.map_congr_left
      intro j _
      simp only [Function.comp_apply, Nat.succ_eq_add_one, ← Nat.add_assoc, Nat.add_right_comm _ 1 j]
      exact dataFrame_congr _ rfl rfl rfl rfl
    · simpa using hs
    · simp only [fillAdvance_snd, emitStx_snd, armTimer_base, armTimer_next, hadd]; omega
    · simp only [fillAdvance_snd, emitStx_snd, armTimer_next, hadd]; omega
  · have hlt : s.snd.base.toNat < s.snd.next.toNat := lt_of_le_of_ne hb fun h => hne (BitVec.eq_of_toNat_eq h)
    rw [fill, fillLoop_sends _ s hs hlt (by omega)]
    rw [show s.snd.next.toNat + (fillLimit s.snd - s.snd.next.toNat) = fillLimit s.snd by omega]
    simp only [if_neg hne]

/-- `Fill()` with nothing to send changes nothing (R140). -/
theorem fill_nothing (s : State) (h : fillLimit s.snd ≤ s.snd.next.toNat) : fill s = .next s := by
  rw [fill, show fillLimit s.snd - s.snd.next.toNat = 0 by omega]
  rfl

/-- Everything the rounds of Fill can do, from any state: STX grows, and of the sender only NEXT, ARMED and STCNT move. -/
theorem fillLoop_frame (k : Nat) : ∀ {s t : State}, fillLoop k s = .next t →
    ∃ (fs : List Bytes) (n c : Word) (a : Bool), t = { s with
      snd := { s.snd with next := n, armed := a, stcnt := c }, stx := s.stx ++ fs } := by
  induction k with
  | zero =>
    intro s t h
    exact ⟨[], s.snd.next, s.snd.stcnt, s.snd.armed, by simpa [fillLoop] using (Host.Outcome.next.inj h).symm⟩
  | succ k ih =>
    intro s t h
    rw [fillLoop, andThen_eq_next] at h
    obtain ⟨u, hu, ht⟩ := h
    rw [sendData_inv hu] at ht
    obtain ⟨fs, n, c, a, rfl⟩ := ih ht
    refine ⟨dataFrame (fillArm s).params (fillArm s).snd (fillArm s).snd.next.toNat :: fs, n, c, a, ?_⟩
    simp only [fillAdvance, emitStx, fillArm_stx, List.append_assoc, List.singleton_append]
    unfold fillArm
    split <;> rfl

theorem fill_frame {s t : State} (h : fill s = .next t) :
    ∃ (fs : List Bytes) (n c : Word) (a : Bool), t = { s with
      snd := { s.snd with next := n, armed := a, stcnt := c }, stx := s.stx ++ fs } := fillLoop_frame _ h

/-- The retransmission (R150): the frames from i on, in increasing order. -/
theorem resend_sends (k : Nat) : ∀ (i : Nat) (s : State), s.snd.srclen.toNat ≤ s.params.srcCap.toNat →
    resend k i s = .next { s with stx := s.stx ++ (List.range k).map fun j => dataFrame s.params s.snd (i + j) } := by
  induction k with
  | zero => intro i s _; simp [resend]
  | succ k ih =>
    intro i s hs
    rw [resend, sendData_next hs, andThen_next, ih (i + 1) _ (by simpa using hs), List.range_succ_eq_map]
    simp only [emitStx, List.map_cons, List.map_map, List.append_assoc, List.singleton_append, Nat.add_zero]
    congr 4
    apply List.map_congr_left
    intro j _
    simp only [Function.comp_apply, Nat.succ_eq_add_one, ← Nat.add_assoc, Nat.add_right_comm _ 1 j]

/-- Everything the retransmission can do, from any state: only STX grows. -/
theorem resend_frame (k : Nat) : ∀ {i : Nat} {s t : State}, resend k i s = .next t →
    ∃ fs : List Bytes, t = { s with stx := s.stx ++ fs } := by
  induction k with
  | zero => intro i s t h; exact ⟨[], by simpa [resend] using (Host.Outcome.next.inj h).symm⟩
  | succ k ih =>
    intro i s t h
    rw [resend, andThen_eq_next] at h
    obtain ⟨u, hu, ht⟩ := h
    rw [sendData_inv hu] at ht
    obtain ⟨fs, rfl⟩ := ih ht
    exact ⟨dataFrame s.params s.snd i :: fs, by simp [emitStx]⟩

/-! ### Registers -/

/-- The mapped registers have different numbers, so a register is found by its own (R54). -/
theorem Reg.ofNumber_number (x : Reg) : Reg.ofNumber x.number = some x := by cases x <;> decide

/-- A register found by a number has that number. -/
theorem Reg.number_of_ofNumber {r : Byte} {x : Reg} (h : Reg.ofNumber r = some x) : x.number = r := by
  have := List.find?_some h
  simpa using this

/-! ### The step -/

/-- Everything a step can do. -/
theorem step_cases {s t : State} (h : step s = .next t) :
    (s.resetIn = true ∧ t = resetInput s)
    ∨ (s.resetIn = false ∧ decode s.port = .incomplete ∧ t = s)
    ∨ (s.resetIn = false ∧ ∃ i rest, decode s.port = .instr i rest ∧ exec i (takeWords rest s) = .next t)
    ∨ (s.resetIn = false ∧ ∃ r rest, decode s.port = .rejected r rest ∧ t = rejectCommand r (takeWords rest s)) := by
  unfold step fetch at h
  cases hr : s.resetIn
  · simp only [hr] at h
    cases hd : decode s.port <;> simp only [hd] at h
    · exact .inr (.inl ⟨rfl, rfl, (Host.Outcome.next.inj h).symm⟩)
    · exact .inr (.inr (.inl ⟨rfl, _, _, rfl, h⟩))
    · exact .inr (.inr (.inr ⟨rfl, _, _, rfl, (Host.Outcome.next.inj h).symm⟩))
  · simp only [hr] at h
    exact .inl ⟨rfl, (Host.Outcome.next.inj h).symm⟩

/-- The step of a command that has wholly arrived is its meaning, its words taken off the port. -/
theorem step_instr {s : State} {i : Instr} {rest : List Word} (hr : s.resetIn = false)
    (hd : decode s.port = .instr i rest) : step s = exec i (takeWords rest s) := by
  simp [step, fetch, hr, hd]

/-- What a rejected command changes: ERR, and one RSP word for RDREG (R220). -/
theorem rejectCommand_cases (r : Reject) (s : State) :
    ∃ c, rejectCommand r s = refuse c s ∨ rejectCommand r s = emitRsp 0 (refuse c s) := by
  cases r with
  | illegalOpcode => exact ⟨_, .inl rfl⟩
  | reservedField o =>
    by_cases h : o = .rdreg
    · exact ⟨.reservedField, .inr (by simp [rejectCommand, h])⟩
    · exact ⟨.reservedField, .inl (by simp [rejectCommand, h])⟩

end Sys2Proof.Machine
end

