-- ==== Sys2Proof/Laws/PerInstr.lean ====
section
/-! SUPPORT. Statements made once for every command, one lemma per constructor of `Instr`: family `Encoding` says that
a well-formed command's words carry its opcode, clear reserved bits, the data words its length asks for, and its
operands. -/

namespace Sys2Proof.Laws.Encoding

/-- The words of a well-formed command say what it is (R71 to R75, R80). -/
def Statement (i : Instr) : Prop :=
  i.wellFormed = true →
    i.dataPhase.length = i.opc.dataWords i.imm ∧ i.opc.reservedClear (commandWord i.opc.code i.imm) = true
      ∧ i.opc.instr i.imm i.dataPhase = i

/-- A LEN form: its count is the length of its byte string, which its packed words carry. -/
theorem len_form (o : Opc) (d : Bytes) (ho : o.form = .len) (hd : dataFits d = true) :
    (packWords d).length = o.dataWords (BitVec.ofNat 16 d.length)
      ∧ o.reservedClear (commandWord o.code (BitVec.ofNat 16 d.length)) = true
      ∧ dataBytes (BitVec.ofNat 16 d.length).toNat (packWords d) = d := by
  have h : (BitVec.ofNat 16 d.length).toNat = d.length := by
    have := of_decide_eq_true hd
    rw [BitVec.toNat_ofNat]; unfold maxDataBytes at this; omega
  refine ⟨?_, ?_, ?_⟩
  · rw [packWords_length, Opc.dataWords, ho, h]
  · have := (BitVec.ofNat 16 d.length).isLt
    rw [reservedClear_iff o _ (opcField_commandWord _ _), commandWord_toNat, ho]
    exact ⟨by omega, fun h => (by cases h), fun h => (by cases h)⟩
  · rw [h, dataBytes_packWords]

/-- A REG form: its number is in IMM16[7:0]. -/
theorem reg_form (o : Opc) (r : Byte) (ho : o.form = .reg) :
    o.reservedClear (commandWord o.code (r.setWidth 16)) = true ∧ (r.setWidth 16 : Half).setWidth 8 = r := by
  have hr := r.isLt
  have h : (r.setWidth 16 : Half).toNat = r.toNat := by rw [BitVec.toNat_setWidth]; omega
  constructor
  · rw [reservedClear_iff o _ (opcField_commandWord _ _), commandWord_toNat, ho, h]
    exact ⟨by omega, fun h => (by cases h), fun _ => (by omega)⟩
  · apply BitVec.eq_of_toNat_eq
    rw [BitVec.toNat_setWidth, h]; omega

theorem nop : Statement .nop := fun _ => by decide
theorem reset : Statement .reset := fun _ => by decide
theorem rdreg (r : Byte) : Statement (.rdreg r) := fun _ =>
  ⟨rfl, (reg_form .rdreg r rfl).1, congrArg Instr.rdreg (reg_form .rdreg r rfl).2⟩
theorem wrreg (r : Byte) (v : Word) : Statement (.wrreg r v) := fun _ =>
  ⟨rfl, (reg_form .wrreg r rfl).1, congrArg (Instr.wrreg · v) (reg_form .wrreg r rfl).2⟩
theorem ckClr : Statement .ckClr := fun _ => by decide
theorem ckAdd (w : Half) : Statement (.ckAdd w) := fun _ => by
  refine ⟨rfl, ?_, rfl⟩
  have := w.isLt
  rw [reservedClear_iff _ _ (opcField_commandWord _ _), commandWord_toNat]
  exact ⟨by simp only [Instr.imm]; omega, fun h => (by cases h), fun h => (by cases h)⟩
theorem ckAddb (d : Bytes) : Statement (.ckAddb d) := fun h =>
  have hd := len_form .ckAddb d rfl h
  ⟨hd.1, hd.2.1, congrArg Instr.ckAddb hd.2.2⟩
theorem ckFold : Statement .ckFold := fun _ => by decide
theorem ckFin : Statement .ckFin := fun _ => by decide
theorem ckGen (d : Bytes) : Statement (.ckGen d) := fun h =>
  have hd := len_form .ckGen d rfl h
  ⟨hd.1, hd.2.1, congrArg Instr.ckGen hd.2.2⟩
theorem ckVer (d : Bytes) : Statement (.ckVer d) := fun h =>
  have hd := len_form .ckVer d rfl h
  ⟨hd.1, hd.2.1, congrArg Instr.ckVer hd.2.2⟩
theorem sndSrc (d : Bytes) : Statement (.sndSrc d) := fun h =>
  have hd := len_form .sndSrc d rfl h
  ⟨hd.1, hd.2.1, congrArg Instr.sndSrc hd.2.2⟩
theorem sndEof : Statement .sndEof := fun _ => by decide
theorem sndStart : Statement .sndStart := fun _ => by decide
theorem sndRx (d : Bytes) : Statement (.sndRx d) := fun h =>
  have hd := len_form .sndRx d rfl h
  ⟨hd.1, hd.2.1, congrArg Instr.sndRx hd.2.2⟩
theorem sndRxerr : Statement .sndRxerr := fun _ => by decide
theorem sndTick : Statement .sndTick := fun _ => by decide
theorem sndTxerr : Statement .sndTxerr := fun _ => by decide
theorem sndAbort : Statement .sndAbort := fun _ => by decide
theorem rcvOpen (d : Bytes) : Statement (.rcvOpen d) := fun h =>
  have hd := len_form .rcvOpen d rfl h
  ⟨hd.1, hd.2.1, congrArg Instr.rcvOpen hd.2.2⟩
theorem rcvRx (d : Bytes) : Statement (.rcvRx d) := fun h =>
  have hd := len_form .rcvRx d rfl h
  ⟨hd.1, hd.2.1, congrArg Instr.rcvRx hd.2.2⟩
theorem rcvRxerr : Statement .rcvRxerr := fun _ => by decide
theorem rcvTick : Statement .rcvTick := fun _ => by decide
theorem rcvTxerr : Statement .rcvTxerr := fun _ => by decide
theorem rcvAbort : Statement .rcvAbort := fun _ => by decide

end Sys2Proof.Laws.Encoding
end

