-- ==== Sys2Proof/Tests/Slice0.lean ====
section
/-! SUPPORT. The model's own tests. Expected values are the spec's: the encodings of 30_encoding.md written out as words,
and the vectors of 95_test_vectors.md (their ids stand in the docstrings; N = 8, SRC_CAP = 64). Then, for every
statement of Certificates/Slice0/Obligations.lean that has hypotheses, a witness that meets them. -/

namespace Sys2Proof.Tests

open Sys2Proof.Machine Sys2Proof.Spec

/-! ### Small states -/

/-- N = 8, SRC_CAP = 64, RTO_RESET = 3, TWDUR_RESET = 2. -/
def p8 : Params := ⟨8, 64, 3, 2⟩

/-- The machine of the vectors after reset. -/
def s0 : State := State.resetWith p8

/-- The first `k` bytes of the source "ABCDEFGHIJKLMNOPQRST" of program P2, in SRC. -/
def source (k : Nat) : Memory := (List.range k).map fun a => (a, BitVec.ofNat 8 (0x41 + a))

/-- A state whose sender has these session registers. -/
def sndAt (st : SndState) (w b e n len : Word) (armed : Bool) (c : Word) : State :=
  { s0 with snd := { s0.snd with
      wsize := w, st := st, base := b, next := e, numpkt := n, srclen := len, armed := armed, stcnt := c,
      src := source len.toNat } }

/-- A state whose receiver has these session registers. -/
def rcvAt (st : RcvState) (e : Word) (k : Byte) (c : Word) : State :=
  { s0 with rcv := { s0.rcv with st := st, expected := e, lastkind := k, twcnt := c } }

def loading : State := sndAt .loading 1 0 0 0 20 false 0
def ready : State := sndAt .ready 2 0 0 3 20 false 0
def running : State := sndAt .run 2 0 2 3 20 true 0
def runningLast : State := sndAt .run 2 1 3 3 20 true 2
def done : State := sndAt .done 2 3 3 3 20 false 0
def failed : State := sndAt (.error .txError) 2 0 2 3 20 false 0
def receiving : State := rcvAt .receiving 0 0xFF 0
def finalAck : State := rcvAt .finalAckSent 3 1 0
def finalAckLast : State := rcvAt .finalAckSent 3 1 1
def received : State := rcvAt .done 3 1 2
def rcvFailed : State := rcvAt (.error .txError) 2 0 0

/-- A frame of N = 8 from its five words and its checksum. -/
def frame (seq kind len d0 d1 : Word) (ck : Half) : Bytes :=
  ([seq, kind, len, d0, d1].flatMap wordBytes) ++ [ck.extractLsb' 8 8, ck.extractLsb' 0 8]

/-- DF0, DF1, DF2 of program P2. -/
def df0 : Bytes := frame 0 0 8 0x41424344 0x45464748 0xEEE2
def df1 : Bytes := frame 1 0 8 0x494A4B4C 0x4D4E4F50 0xCEC1
def df2 : Bytes := frame 2 1 4 0x51525354 0 0x5B52

/-- AckFrame(0), AckFrame(1), AckFrame(2) and AckFrame(-1) (K-12 to K-14). -/
def ack0 : Bytes := frame 0 3 0 0 0 0xFFFC
def ack1 : Bytes := frame 1 3 0 0 0 0xFFFB
def ack2 : Bytes := frame 2 3 0 0 0 0xFFFA
def ackM1 : Bytes := frame 0xFFFFFFFF 3 0 0 0 0xFFFC

/-- K-9: EncodeFrame(1, Data, "HI"). -/
def k9 : Bytes := frame 1 0 2 0x48490000 0 0xB7B3

/-- What a result's state shows. -/
def shows {α : Type} (r : Result) (f : State → α) : Option α :=
  match r with
  | .next s => some (f s)
  | .fault _ | .refused _ => none

/-! ### WellFormed -/

theorem dataFits_replicate (n : Nat) : dataFits (List.replicate n 0) = decide (n ≤ 65535) := by
  rw [dataFits, List.length_replicate, maxDataBytes]

/-- R76: a data phase of 65536 bytes fits in no command. -/
theorem test_wellFormed_refuses_ckAddb : (Instr.ckAddb (List.replicate 65536 0)).wellFormed = false :=
  (dataFits_replicate 65536).trans (by decide)
theorem test_wellFormed_refuses_ckGen : (Instr.ckGen (List.replicate 65536 0)).wellFormed = false :=
  (dataFits_replicate 65536).trans (by decide)
theorem test_wellFormed_refuses_ckVer : (Instr.ckVer (List.replicate 65536 0)).wellFormed = false :=
  (dataFits_replicate 65536).trans (by decide)
theorem test_wellFormed_refuses_sndSrc : (Instr.sndSrc (List.replicate 65536 0)).wellFormed = false :=
  (dataFits_replicate 65536).trans (by decide)
theorem test_wellFormed_refuses_sndRx : (Instr.sndRx (List.replicate 65536 0)).wellFormed = false :=
  (dataFits_replicate 65536).trans (by decide)
theorem test_wellFormed_refuses_rcvOpen : (Instr.rcvOpen (List.replicate 65536 0)).wellFormed = false :=
  (dataFits_replicate 65536).trans (by decide)
theorem test_wellFormed_refuses_rcvRx : (Instr.rcvRx (List.replicate 65536 0)).wellFormed = false :=
  (dataFits_replicate 65536).trans (by decide)

/-! ### Decoding: every constructor from a word written out by R71 to R77 -/

theorem test_decode_nop : decode [0x00000000] = .instr .nop [] := by decide
theorem test_decode_reset : decode [0x01000000] = .instr .reset [] := by decide
theorem test_decode_rdreg : decode [0x02000013] = .instr (.rdreg 0x13) [] := by decide
theorem test_decode_wrreg : decode [0x03000010, 0x00000002] = .instr (.wrreg 0x10 2) [] := by decide
theorem test_decode_ckClr : decode [0x40000000] = .instr .ckClr [] := by decide
theorem test_decode_ckAdd : decode [0x4100FFFE] = .instr (.ckAdd 0xFFFE) [] := by decide
/-- C-5: the byte of the last data word beyond L = 3 is ignored. -/
theorem test_decode_ckAddb : decode [0x42000003, 0x484941FF, 7] = .instr (.ckAddb [0x48, 0x49, 0x41]) [7] := by decide
theorem test_decode_ckFold : decode [0x43000000] = .instr .ckFold [] := by decide
theorem test_decode_ckFin : decode [0x44000000] = .instr .ckFin [] := by decide
/-- C-13. -/
theorem test_decode_ckGen : decode [0x45000016, 1, 0, 2, 0x48490000, 0, 0xB7B30000] = .instr (.ckGen k9) [] := by decide
theorem test_decode_ckVer : decode [0x46000016, 1, 0, 2, 0x48490000, 0, 0xB7B30000] = .instr (.ckVer k9) [] := by decide
/-- S-1. -/
theorem test_decode_sndSrc :
    decode [0x80000005, 0x48454C4C, 0x4F000000] = .instr (.sndSrc [0x48, 0x45, 0x4C, 0x4C, 0x4F]) [] := by decide
theorem test_decode_sndEof : decode [0x81000000] = .instr .sndEof [] := by decide
theorem test_decode_sndStart : decode [0x82000000] = .instr .sndStart [] := by decide
theorem test_decode_sndRx : decode [0x83000016, 0, 3, 0, 0, 0, 0xFFFC0000] = .instr (.sndRx ack0) [] := by decide
theorem test_decode_sndRxerr : decode [0x84000000] = .instr .sndRxerr [] := by decide
theorem test_decode_sndTick : decode [0x85000000] = .instr .sndTick [] := by decide
theorem test_decode_sndTxerr : decode [0x86000000] = .instr .sndTxerr [] := by decide
theorem test_decode_sndAbort : decode [0x87000000] = .instr .sndAbort [] := by decide
/-- R-1. -/
theorem test_decode_rcvOpen :
    decode [0xC0000005, 0x662E7478, 0x74000000] = .instr (.rcvOpen [0x66, 0x2E, 0x74, 0x78, 0x74]) [] := by decide
theorem test_decode_rcvRx :
    decode [0xC1000016, 0, 0, 8, 0x41424344, 0x45464748, 0xEEE20000] = .instr (.rcvRx df0) [] := by decide
theorem test_decode_rcvRxerr : decode [0xC2000000] = .instr .rcvRxerr [] := by decide
theorem test_decode_rcvTick : decode [0xC3000000] = .instr .rcvTick [] := by decide
theorem test_decode_rcvTxerr : decode [0xC4000000] = .instr .rcvTxerr [] := by decide
theorem test_decode_rcvAbort : decode [0xC5000000] = .instr .rcvAbort [] := by decide
/-- G-20: ILLEGAL_OPCODE comes before RESERVED_FIELD. -/
theorem test_decode_illegal : decode [0x04010000, 5] = .rejected .illegalOpcode [5] := by decide
/-- G-7: IMM16[15:8] of a REG form must be zero. -/
theorem test_decode_reserved : decode [0x02000113, 5] = .rejected (.reservedField .rdreg) [5] := by decide

/-- Every row of the opcode map: the table's word decodes, and is performed as the first command after reset. -/
theorem test_table_words :
    ∀ o ∈ Opc.all, (decodeTableWord 32 (o.code.toNat * 2 ^ 24)).map Instr.opc = some o
      ∧ (shows (step (State.reset.withFetchWord 32 (o.code.toNat * 2 ^ 24))) fun t => t.port) = some [] := by decide

/-! ### The codec (K-1 to K-23) -/

theorem test_ckOf :
    ckOf [] = 0xFFFF ∧ ckOf [0xFF, 0xFF] = 0 ∧ ckOf [1] = 0xFEFF ∧ ckOf [0xFF, 0xFF, 0xFF, 0xFF, 0, 2] = 0xFFFD
      ∧ ckOf [0x48, 0x49, 0x41] = 0x76B6 := by decide
/-- K-8, K-10, K-13, K-16. -/
theorem test_encodeFrame :
    encodeFrame p8 0 .finalData [0x41] = frame 0 1 1 0x41000000 0 0xBEFD
      ∧ encodeFrame p8 3 .data [0x41, 0x42, 0x43, 0x44, 0x45, 0x46, 0x47, 0x48]
          = frame 3 0 8 0x41424344 0x45464748 0xEEDF
      ∧ ackFrame p8 (-1) = ackM1
      ∧ requestFrame p8 [0x66, 0x2E, 0x74, 0x78, 0x74] = frame 0 2 5 0x662E7478 0x74000000 0xB151 := by decide
/-- K-18 to K-21: the wrong length, KIND = 4, LEN = 9, LEN = -1. -/
theorem test_wellFormedFrame :
    wellFormedFrame p8 (k9.take 21) = false ∧ wellFormedFrame p8 (frame 0 4 0 0 0 0xFFFB) = false
      ∧ wellFormedFrame p8 (frame 3 0 9 0x41424344 0x45464748 0xEEDF) = false
      ∧ wellFormedFrame p8 (frame 3 0 0xFFFFFFFF 0x41424344 0x45464748 0xEEDF) = false := by decide
/-- K-9, K-22, K-23. -/
theorem test_frameValid :
    frameValid p8 k9 = true ∧ frameValid p8 (frame 1 0 2 0x49490000 0 0xB7B3) = false
      ∧ frameValid p8 (frame 1 0 2 0x48490055 0 0xB7B3) = true := by decide

/-! ### Global commands (G-1 to G-21) -/

theorem test_nop : shows (exec .nop running) id = some running := by decide
/-- G-3: WSIZE = 8 before, 1 after. -/
theorem test_reset : shows (exec .reset { running with err := ⟨true, 5⟩ }) id = some s0 := by decide
/-- G-5, and SSTATE in ERROR (S-19). -/
theorem test_rdreg :
    (shows (exec (.rdreg 0x00) s0) fun t => t.rsp) = some [8]
      ∧ (shows (exec (.rdreg 0x13) failed) fun t => t.rsp) = some [0x105] := by decide
/-- G-6. -/
theorem test_rdreg_unmapped :
    (shows (exec (.rdreg 0x03) s0) fun t => (t.rsp, readReg t .err)) = some ([0], 0x80000004) := by decide
/-- G-13, G-17, G-9. -/
theorem test_wrreg :
    (shows (exec (.wrreg 0x12 8) s0) fun t => (t.snd.maxpay, t.err)) = some (8, .clear)
      ∧ (shows (exec (.wrreg 0x10 4) receiving) fun t => t.snd.wsize) = some 4
      ∧ (shows (exec (.wrreg 0x02 0x12345678) { s0 with err := ⟨true, 5⟩ }) fun t => readReg t .err) = some 0 := by decide
/-- G-8, G-11, G-12, G-15, G-16. -/
theorem test_wrreg_refused :
    (shows (exec (.wrreg 0x13 3) s0) fun t => readReg t .err) = some 0x80000005
      ∧ (shows (exec (.wrreg 0x10 0x80000000) s0) fun t => readReg t .err) = some 0x80000007
      ∧ (shows (exec (.wrreg 0x12 9) s0) fun t => readReg t .err) = some 0x80000007
      ∧ (shows (exec (.wrreg 0x10 0) running) fun t => readReg t .err) = some 0x80000006
      ∧ (shows (exec (.wrreg 0x20 9) receiving) fun t => readReg t .err) = some 0x80000006 := by decide

/-! ### The checksum unit (C-1 to C-22) -/

def csuAt (acc : Word) (ovf : Bool) : State := { s0 with csu := { s0.csu with acc := acc, ovf := ovf } }

/-- C-1. -/
theorem test_ckClr : (shows (exec .ckClr (csuAt 0x1FFFE true)) fun t => t.csu) = some ⟨0, 0, false, false⟩ := by decide
/-- C-2, C-3. -/
theorem test_ckAdd :
    (shows (exec (.ckAdd 0xFFFF) (csuAt 0xFFFF false)) fun t => (t.csu.acc, t.csu.ovf)) = some (0x1FFFE, false)
      ∧ (shows (exec (.ckAdd 1) (csuAt 0xFFFFFFFF false)) fun t => (t.csu.acc, t.csu.ovf)) = some (0, true) := by decide
/-- C-4, C-6. -/
theorem test_ckAddb :
    (shows (exec (.ckAddb [0x48, 0x49, 0x41]) s0) fun t => t.csu.acc) = some 0x8949
      ∧ (shows (exec (.ckAddb []) s0) fun t => t.csu.acc) = some 0 := by decide
/-- C-8, C-9. -/
theorem test_ckFold :
    (shows (exec .ckFold (csuAt 0x20000 false)) fun t => t.csu.acc) = some 2
      ∧ (shows (exec .ckFold (csuAt 0xFFFFFFFF false)) fun t => t.csu.acc) = some 0xFFFF := by decide
/-- C-12, C-11. -/
theorem test_ckFin :
    (shows (exec .ckFin (csuAt 0x20000 false)) fun t => (t.csu.acc, t.csu.res)) = some (2, 0xFFFD)
      ∧ (shows (exec .ckFin (csuAt 0xFFFF false)) fun t => t.csu.res) = some 0 := by decide
/-- C-14, C-17, C-22. -/
theorem test_ckGen :
    (shows (exec (.ckGen (frame 1 0 2 0x48490000 0 0)) (csuAt 0x1234 false)) fun t => (t.csu.acc, t.csu.res))
        = some (0x1234, 0xB7B3)
      ∧ (shows (exec (.ckGen (frame 0 4 0 0 0 0)) s0) fun t => t.csu.res) = some 0xFFFB := by decide
/-- C-15, C-16. -/
theorem test_ckGen_refused :
    (shows (exec (.ckGen [0]) s0) fun t => readReg t .err) = some 0x80000003
      ∧ (shows (exec (.ckGen (frame 3 0 9 0x41424344 0x45464748 0xEEDF)) s0) fun t => readReg t .err)
        = some 0x80000007 := by decide
/-- C-18 to C-21. -/
theorem test_ckVer :
    (shows (exec (.ckVer k9) s0) fun t => t.csu.ok) = some true
      ∧ (shows (exec (.ckVer (frame 1 0 2 0x49490000 0 0xB7B3)) s0) fun t => t.csu.ok) = some false
      ∧ (shows (exec (.ckVer (frame 0 4 0 0 0 0xFFFB)) s0) fun t => t.csu.ok) = some false
      ∧ (shows (exec (.ckVer []) s0) fun t => (t.csu.ok, t.err)) = some (false, .clear) := by decide

/-! ### The sender (S-1 to S-26) -/

/-- S-1, and S-3: SRC_CAP is reached exactly. -/
theorem test_sndSrc :
    (shows (exec (.sndSrc [0x48, 0x45]) s0) fun t => (t.snd.src, t.snd.srclen, readReg t .sstate))
        = some ([(0, 0x48), (1, 0x45)], 2, 1)
      ∧ (shows (exec (.sndSrc [1, 2, 3, 4]) (sndAt .loading 1 0 0 0 60 false 0)) fun t => t.snd.srclen) = some 64 := by
  decide
/-- S-2, S-24. -/
theorem test_sndSrc_refused :
    (shows (exec (.sndSrc [1, 2, 3, 4, 5]) (sndAt .loading 1 0 0 0 60 false 0)) fun t => (t.snd.srclen, readReg t .err))
        = some (60, 0x80000008)
      ∧ (shows (exec (.sndSrc [0x5A]) ready) fun t => readReg t .err) = some 0x80000006 := by decide
/-- S-6. -/
theorem test_sndEof :
    (shows (exec .sndEof loading) fun t => (t.snd.numpkt, readReg t .sstate, packetLen t.snd 2)) = some (3, 2, 4) := by decide
/-- S-4, S-23. -/
theorem test_sndEof_empty :
    (shows (exec .sndEof s0) fun t => readReg t .sstate) = some 0x205
      ∧ (shows (exec .sndEof done) fun t => (readReg t .sstate, t.snd.srclen)) = some (0x205, 0) := by decide
/-- P2: SND_START with WSIZE = 2. -/
theorem test_sndStart :
    (shows (exec .sndStart ready) fun t => (t.stx, t.snd)) = some ([df0, df1], running.snd) := by decide
/-- S-7. -/
theorem test_sndStart_refused : (shows (exec .sndStart s0) fun t => readReg t .err) = some 0x80000006 := by decide
/-- S-13, and the last ACK of P2. -/
theorem test_sndRx :
    (shows (exec (.sndRx ack0) { running with snd := { running.snd with stcnt := 2 } }) fun t =>
        (t.stx, t.snd.base, t.snd.next, t.snd.stcnt)) = some ([df2], 1, 3, 0)
      ∧ (shows (exec (.sndRx ack2) runningLast) fun t => t.snd) = some done.snd := by decide
/-- S-9 to S-12: Ack(-1), an Ack of a packet never sent, a corrupt Ack, a frame that is no Ack. -/
theorem test_sndRx_ignored :
    shows (exec (.sndRx ackM1) running) id = some running ∧ shows (exec (.sndRx ack2) running) id = some running
      ∧ shows (exec (.sndRx (frame 1 3 0 0 0 0xFFFC)) running) id = some running
      ∧ shows (exec (.sndRx (frame 0 0 0 0 0 0xFFFF)) running) id = some running := by decide
/-- S-25. -/
theorem test_sndRxerr : shows (exec .sndRxerr running) id = some running := by decide
/-- S-15, S-18. -/
theorem test_sndTick :
    (shows (exec .sndTick { runningLast with snd := { runningLast.snd with stcnt := 1 } }) fun t => (t.snd.stcnt, t.stx))
        = some (2, [])
      ∧ shows (exec .sndTick done) id = some done := by decide
/-- S-16: the RTO-th tick. -/
theorem test_sndTick_timeout :
    (shows (exec .sndTick runningLast) fun t => (t.snd.stcnt, t.stx)) = some (0, [df1, df2]) := by decide
/-- S-19, S-20. -/
theorem test_sndTxerr :
    (shows (exec .sndTxerr running) fun t => t.snd) = some failed.snd
      ∧ (shows (exec .sndTxerr s0) fun t => readReg t .err) = some 0x80000006 := by decide
/-- S-21: WSIZE stays. -/
theorem test_sndAbort :
    (shows (exec .sndAbort failed) fun t => (readReg t .sstate, t.snd.wsize, t.snd.base, t.snd.next, t.snd.numpkt, t.snd.srclen))
      = some (0, 2, 0, 0, 0, 0) := by decide

/-! ### The receiver (R-1 to R-22) -/

/-- R-1. -/
theorem test_rcvOpen :
    (shows (exec (.rcvOpen [0x66, 0x2E, 0x74, 0x78, 0x74]) s0) fun t => (t.rtx, t.rcv))
      = some ([frame 0 2 5 0x662E7478 0x74000000 0xB151], receiving.rcv) := by decide
/-- R-2, R-3. -/
theorem test_rcvOpen_refused :
    (shows (exec (.rcvOpen [1, 2, 3, 4, 5, 6, 7, 8, 9]) s0) fun t => readReg t .err) = some 0x80000003
      ∧ (shows (exec (.rcvOpen [0x67]) receiving) fun t => readReg t .err) = some 0x80000006 := by decide
/-- R-6, and the FinalData accept of P3. -/
theorem test_rcvRx :
    (shows (exec (.rcvRx df0) receiving) fun t => (t.sink, t.rtx, t.rcv.expected, t.rcv.lastkind))
        = some ([.bytes [0x41, 0x42, 0x43, 0x44, 0x45, 0x46, 0x47, 0x48]], [ack0], 1, 0)
      ∧ (shows (exec (.rcvRx df2) (rcvAt .receiving 2 0 0)) fun t => (t.sink, t.rtx, t.rcv))
        = some ([.bytes [0x51, 0x52, 0x53, 0x54]], [ack2], finalAck.rcv) := by decide
/-- R-4, R-5, R-14, R-20. -/
theorem test_rcvRx_other :
    (shows (exec (.rcvRx (frame 0 0 8 0x41424344 0x45464748 0)) receiving) fun t => (t.rtx, t.sink, t.rcv))
        = some ([ackM1], [], receiving.rcv)
      ∧ (shows (exec (.rcvRx df1) receiving) fun t => (t.rtx, t.rcv)) = some ([ackM1], receiving.rcv)
      ∧ (shows (exec (.rcvRx [7]) finalAckLast) fun t => (t.rtx, t.rcv)) = some ([ack2], finalAckLast.rcv)
      ∧ shows (exec (.rcvRx df2) received) id = some received := by decide
/-- R-16. -/
theorem test_rcvRxerr : shows (exec .rcvRxerr receiving) id = some receiving := by decide
/-- R-12, R-13. -/
theorem test_rcvTick :
    (shows (exec .rcvTick finalAck) fun t => (t.rcv, t.sink)) = some (finalAckLast.rcv, [])
      ∧ (shows (exec .rcvTick finalAckLast) fun t => (t.rcv, t.sink)) = some (received.rcv, [.close]) := by decide
/-- R-15. -/
theorem test_rcvTick_ignored : shows (exec .rcvTick receiving) id = some receiving := by decide
/-- R-17, R-18. -/
theorem test_rcvTxerr :
    (shows (exec .rcvTxerr (rcvAt .receiving 2 0 0)) fun t => (readReg t .rstate, t.rcv.expected)) = some (0x104, 2)
      ∧ (shows (exec .rcvTxerr s0) fun t => readReg t .err) = some 0x80000006 := by decide
/-- R-19. -/
theorem test_rcvAbort :
    (shows (exec .rcvAbort finalAckLast) fun t => (t.rcv, t.sink)) = some (s0.rcv, []) := by decide

/-! ### The step -/

/-- G-2: NOP with IMM16 = 1. -/
theorem test_step_reserved :
    (shows (step { s0 with port := [0x00000001, 0x85000000] }) fun t => (readReg t .err, t.port))
      = some (0x80000002, [0x85000000]) := by decide
/-- R241: the reset input, between commands. -/
theorem test_step_resetInput :
    shows (step { running with resetIn := true, port := [7] }) id = some { s0 with port := [7] } := by decide
/-- SRC after reset is in its canonical form. -/
theorem test_reset_memory_wf : Memory.wf State.reset.snd.src := by decide

/-! ### Witnesses: states and operands that meet the statements' hypotheses -/

/-- A state with the receiver of `s0`, or the sender of `s0`, meets the invariant when its own engine does. -/
theorem inv_snd {s : State} (h : s = { s0 with snd := s.snd }) (hc : s.snd.ConfigInv p8) (hw : s.snd.WindowInv)
    (ht : s.snd.TimerInv) (hs : s.snd.SessionInv) (hm : s.snd.SourceInv p8) : s.Inv := by
  rw [h]
  exact ⟨(by decide : p8.Legal), (by decide : ErrReg.clear.Inv), hc, hw, ht, hs, hm,
    ⟨(by decide : 1 ≤ s0.rcv.twdur.toNat), (by decide : s0.rcv.expected = 0 ∧ s0.rcv.lastkind = 0xFF ∧ s0.rcv.twcnt = 0)⟩⟩

theorem inv_rcv {s : State} (h : s = { s0 with rcv := s.rcv }) (hr : s.rcv.Inv) : s.Inv := by
  rw [h]
  exact ⟨(by decide : p8.Legal), (by decide : ErrReg.clear.Inv), (by decide : s0.snd.ConfigInv p8),
    (by decide : s0.snd.WindowInv), (by decide : s0.snd.TimerInv), (by decide : s0.snd.Unprepared ∧ s0.snd.srclen = 0),
    (by decide : s0.snd.SourceInv p8), hr⟩

theorem inv_s0 : s0.Inv := inv_rcv rfl ⟨by decide, (by decide : s0.rcv.expected = 0 ∧ s0.rcv.lastkind = 0xFF ∧ s0.rcv.twcnt = 0)⟩
theorem inv_loading : loading.Inv :=
  inv_snd rfl (by decide) (by decide) (by decide) (by decide : loading.snd.Unprepared) (by decide)
/-- LOADING with no bytes yet: an SND_SRC of an empty string has been performed (R142). -/
theorem inv_loadingEmpty : (sndAt .loading 1 0 0 0 0 false 0).Inv :=
  inv_snd rfl (by decide) (by decide) (by decide) (by decide : (sndAt .loading 1 0 0 0 0 false 0).snd.Unprepared) (by decide)
theorem inv_ready : ready.Inv :=
  inv_snd rfl (by decide) (by decide) (by decide)
    (by decide : ready.snd.base = 0 ∧ ready.snd.next = 0 ∧ ready.snd.Prepared) (by decide)
theorem inv_run {w b e : Word} {c : Word} (hc : (sndAt .run w b e 3 20 true c).snd.ConfigInv p8)
    (hw : (sndAt .run w b e 3 20 true c).snd.WindowInv) (ht : (sndAt .run w b e 3 20 true c).snd.TimerInv)
    (hs : b.toNat < e.toNat ∧ (sndAt .run w b e 3 20 true c).snd.Prepared
      ∧ e.toNat = fillLimit (sndAt .run w b e 3 20 true c).snd)
    (hm : (sndAt .run w b e 3 20 true c).snd.SourceInv p8) : (sndAt .run w b e 3 20 true c).Inv :=
  inv_snd rfl hc hw ht hs hm
theorem inv_running : running.Inv := inv_run (by decide) (by decide) (by decide) (by decide) (by decide)
theorem inv_runningLast : runningLast.Inv := inv_run (by decide) (by decide) (by decide) (by decide) (by decide)
theorem inv_done : done.Inv :=
  inv_snd rfl (by decide) (by decide) (by decide)
    (by decide : done.snd.base = done.snd.numpkt ∧ done.snd.next = done.snd.numpkt ∧ 1 ≤ done.snd.numpkt.toNat) (by decide)
theorem inv_failed : failed.Inv :=
  inv_snd rfl (by decide) (by decide) (by decide)
    (by decide : failed.snd.base.toNat < failed.snd.next.toNat ∧ failed.snd.Prepared) (by decide)
theorem inv_receiving : receiving.Inv :=
  inv_rcv rfl ⟨by decide, (by decide : (receiving.rcv.lastkind = 0 ∨ receiving.rcv.lastkind = 0xFF) ∧ receiving.rcv.twcnt = 0)⟩
theorem inv_finalAck : finalAck.Inv :=
  inv_rcv rfl ⟨by decide, (by decide : finalAck.rcv.lastkind = 1 ∧ finalAck.rcv.twcnt.toNat < finalAck.rcv.twdur.toNat)⟩
theorem inv_finalAckLast : finalAckLast.Inv :=
  inv_rcv rfl ⟨by decide, (by decide : finalAckLast.rcv.lastkind = 1 ∧ finalAckLast.rcv.twcnt.toNat < finalAckLast.rcv.twdur.toNat)⟩
theorem inv_received : received.Inv := inv_rcv rfl ⟨by decide, (by decide : received.rcv.lastkind = 1)⟩

/-- A frame of the vectors is valid by the statements' own FrameValid. -/
theorem valid {f : Bytes} (h : f.length = 22 ∧ (0 ≤ lenNum f ∧ lenNum f ≤ 8) ∧ kindNum f ≤ 3
    ∧ num16 f 20 = ckNum (coverOf f)) : FrameValid p8 f := h

theorem invalid {f : Bytes} (h : ¬ (f.length = 22 ∧ (0 ≤ lenNum f ∧ lenNum f ≤ 8) ∧ kindNum f ≤ 3
    ∧ num16 f 20 = ckNum (coverOf f))) : ¬ FrameValid p8 f := h

theorem witness_DecodeOfEncode :
    (Instr.sndSrc [1, 2, 3, 4, 5]).wellFormed = true ∧ (Instr.rcvRx (List.replicate 65535 0)).wellFormed = true :=
  ⟨by decide, (dataFits_replicate 65535).trans (by decide)⟩

theorem witness_AcceptedWordsAreTheEncoding :
    decode [0x03000010, 2, 7] = .instr (.wrreg 0x10 2) [7]
      ∧ decode [0x42000003, 0x484941FF, 7] = .instr (.ckAddb [0x48, 0x49, 0x41]) [7] := by decide

/-- The ends of every range, and their neighbours outside. -/
theorem witness_IllegalOpcodesAreRejected :
    ([0x04000000, 0x3F000000, 0x47000000, 0x7F000000, 0x88000000, 0xBF000000, 0xC6000000, 0xFF000000].map
        fun w : Word => decode [w, 7]) = List.replicate 8 (.rejected .illegalOpcode [7])
      ∧ ([0x03000000, 0x40000000, 0x46000000, 0x80000000, 0x87000000, 0xC0000000, 0xC5000000].map
        fun w : Word => decide (decode [w, 7] = .rejected .illegalOpcode [7])) = List.replicate 7 false := by decide

/-- One witness for each clause: RSV, IMM16 of a NONE form, IMM16[15:8] of a REG form, each at its lowest bit. -/
theorem witness_ReservedFieldsAreRejected :
    ((0x42010001 : Word).toNat / 2 ^ 24 = Opc.ckAddb.code.toNat
        ∧ ([7] : List Word).length = Opc.ckAddb.dataWords (immField 0x42010001)
        ∧ (0x42010001 : Word).toNat / 2 ^ 16 % 2 ^ 8 ≠ 0)
      ∧ ((0x85000001 : Word).toNat / 2 ^ 24 = Opc.sndTick.code.toNat ∧ Opc.sndTick.form = .none
        ∧ ([] : List Word).length = Opc.sndTick.dataWords (immField 0x85000001)
        ∧ (0x85000001 : Word).toNat % 2 ^ 16 ≠ 0)
      ∧ ((0x03000110 : Word).toNat / 2 ^ 24 = Opc.wrreg.code.toNat ∧ Opc.wrreg.form = .reg
        ∧ ([7] : List Word).length = Opc.wrreg.dataWords (immField 0x03000110)
        ∧ (0x03000110 : Word).toNat / 2 ^ 8 % 2 ^ 8 ≠ 0) := by decide

theorem witness_StepPerformsTheDecodedCommand :
    { running with port := [0x85000000, 7] }.resetIn = false ∧ decode [0x85000000, 7] = .instr .sndTick [7] := by decide

theorem witness_IncompleteCommandsWait :
    s0.resetIn = false ∧ s0.port = []
      ∧ ([0x80000005, 0x48454C4C] : List Word).length < commandLength 0x80000005 := by decide

theorem witness_IllegalOpcodeStepSetsErrOnly :
    { running with port := [0x04010000, 7] }.resetIn = false ∧ 0x04 ≤ (0x04010000 : Word).toNat / 2 ^ 24
      ∧ (0x04010000 : Word).toNat / 2 ^ 24 ≤ 0x3F := by decide

/-- RDREG, which answers, and a command with a data phase, which is consumed. -/
theorem witness_ReservedFieldStepSetsErrOnly :
    ({ running with port := [0x02000113, 7] }.port = 0x02000113 :: ([] ++ [7]) ∧ Opc.rdreg.form = .reg
        ∧ (0x02000113 : Word).toNat / 2 ^ 24 = Opc.rdreg.code.toNat
        ∧ ([] : List Word).length = Opc.rdreg.dataWords (immField 0x02000113)
        ∧ (0x02000113 : Word).toNat / 2 ^ 8 % 2 ^ 8 ≠ 0)
      ∧ ({ running with port := [0x42010001, 6, 7] }.port = 0x42010001 :: ([6] ++ [7])
        ∧ (0x42010001 : Word).toNat / 2 ^ 24 = Opc.ckAddb.code.toNat
        ∧ ([6] : List Word).length = Opc.ckAddb.dataWords (immField 0x42010001)
        ∧ (0x42010001 : Word).toNat / 2 ^ 16 % 2 ^ 8 ≠ 0) := by decide

theorem witness_ResetInputActsAsResetCommand : { running with resetIn := true }.resetIn = true := rfl

/-- Both states the write windows allow, and the ends of the legal values. -/
theorem witness_WrregWritesTheRegister :
    (sndOpen s0 ∧ sndOpen done ∧ Spec.rcvOpen s0 ∧ Spec.rcvOpen received)
      ∧ (1 ≤ (1#32).toNat ∧ (0x7FFFFFFF#32).toNat ≤ 0x7FFFFFFF) ∧ (0xFFFFFFFF#32).toNat ≠ 0
      ∧ (8#32).toNat ≤ s0.params.n.toNat :=
  ⟨⟨.inl rfl, .inr rfl, .inl rfl, .inr rfl⟩, by decide, by decide, by decide⟩

/-- A refusal of each kind of condition, and a command no cause applies to. -/
theorem witness_RefusalsFollowThePriorityTable :
    refusalCauses (.wrreg 0x13 3) s0 = [5] ∧ refusalCauses (.wrreg 0x10 0) running = [6, 7]
      ∧ refusalCauses (.sndSrc []) s0 = [] := by
  refine ⟨?_, ?_, ?_⟩
  · simp [refusalCauses, readOnlyNumbers, writableNumbers]
  · simp [refusalCauses, readOnlyNumbers, writableNumbers, sndOpen, running, sndAt]
  · simp [refusalCauses, s0, State.resetWith, Sender.reset]

theorem witness_CkAddbSplitsAtEvenOffsets : ([0x48, 0x49] : Bytes).length % 2 = 0 := by decide

/-- LEN = 0 and LEN = N. -/
theorem witness_CkGenWritesTheChecksum :
    (ack0.length = s0.params.n.toNat + 14 ∧ lenNum ack0 = 0)
      ∧ df0.length = s0.params.n.toNat + 14 ∧ 0 ≤ lenNum df0 ∧ lenNum df0 = s0.params.n.toNat := by decide

theorem witness_EncodedFramesAreValid :
    p8.Legal ∧ ([] : Bytes).length ≤ p8.n.toNat ∧ ([1, 2, 3, 4, 5, 6, 7, 8] : Bytes).length ≤ p8.n.toNat := by decide

/-- Each place a bit may be inverted: SEQ or KIND, the last covered payload byte, the two bytes of CK. -/
theorem witness_SingleBitErrorsAreDetected :
    p8.Legal ∧ FrameValid p8 k9 ∧ 7 < 8 ∧ (12 ≤ 13 ∧ ((13 : Nat) : Int) < 12 + lenNum k9)
      ∧ 20 = 12 + p8.n.toNat ∧ 21 = 13 + p8.n.toNat :=
  ⟨by decide, valid (by decide), by decide, by decide, by decide, by decide⟩

theorem witness_UncoveredBytesAreIgnored :
    p8.Legal ∧ FrameValid p8 k9 ∧ 12 + lenNum k9 ≤ ((14 : Nat) : Int) ∧ 19 < 12 + p8.n.toNat :=
  ⟨by decide, valid (by decide), by decide, by decide⟩

/-- IDLE, and LOADING up to the last byte of SRC. -/
theorem witness_SndSrcAppendsToTheSource :
    s0.params.Legal ∧ s0.snd.st = .idle ∧ s0.snd.srclen.toNat + ([1] : Bytes).length ≤ s0.params.srcCap.toNat
      ∧ loading.snd.st = .loading ∧ loading.snd.srclen.toNat + (List.replicate 44 (1 : Byte)).length = loading.params.srcCap.toNat := by
  decide

theorem witness_SndSrcFromDoneStartsANewSession :
    done.params.Legal ∧ done.snd.st = .done ∧ ([0x58, 0x59] : Bytes).length ≤ done.params.srcCap.toNat := by decide

theorem witness_SndEofPreparesThePackets :
    loading.Inv ∧ loading.snd.st = .loading ∧ loading.snd.srclen.toNat ≠ 0 := ⟨inv_loading, rfl, by decide⟩

theorem witness_SndEofOnEmptySourceIsFatal :
    (s0.Inv ∧ s0.snd.st = .idle ∧ s0.snd.srclen.toNat = 0)
      ∧ ((sndAt .loading 1 0 0 0 0 false 0).Inv ∧ (sndAt .loading 1 0 0 0 0 false 0).snd.srclen.toNat = 0)
      ∧ done.Inv ∧ done.snd.st = .done :=
  ⟨⟨inv_s0, rfl, rfl⟩, ⟨inv_loadingEmpty, rfl⟩, inv_done, rfl⟩

/-- The first and the last packet, in READY and in RUN. -/
theorem witness_DataFramesAreTheSourceChunks :
    ready.Inv ∧ ready.snd.st = .ready ∧ running.Inv ∧ running.snd.st = .run
      ∧ 0 < ready.snd.numpkt.toNat ∧ 2 + 1 = running.snd.numpkt.toNat :=
  ⟨inv_ready, rfl, inv_running, rfl, by decide, by decide⟩

theorem witness_SndStartSendsTheFirstWindow : ready.Inv ∧ ready.snd.st = .ready := ⟨inv_ready, rfl⟩

/-- An Ack of BASE that refills the window, and the Ack of the last packet. -/
theorem witness_SndRxAcceptsNewAcks :
    (running.Inv ∧ running.snd.st = .run ∧ FrameValid running.params ack0 ∧ kindNum ack0 = 3
        ∧ seqNum ack0 = ((0 : Nat) : Int) ∧ running.snd.base.toNat ≤ 0 ∧ 0 < running.snd.next.toNat
        ∧ 0 + 1 ≠ running.snd.numpkt.toNat)
      ∧ runningLast.Inv ∧ FrameValid runningLast.params ack2 ∧ kindNum ack2 = 3 ∧ seqNum ack2 = ((2 : Nat) : Int)
        ∧ runningLast.snd.base.toNat ≤ 2 ∧ 2 < runningLast.snd.next.toNat ∧ 2 + 1 = runningLast.snd.numpkt.toNat :=
  ⟨⟨inv_running, rfl, valid (by decide), by decide, by decide, by decide, by decide, by decide⟩,
    inv_runningLast, valid (by decide), by decide, by decide, by decide, by decide, by decide⟩

/-- One witness for each clause: not RUN, not valid, not an Ack, Ack(BASE - 1), Ack(NEXT). -/
theorem witness_SndRxIgnoresEverythingElse :
    done.snd.st ≠ .run ∧ ¬ FrameValid running.params (frame 1 3 0 0 0 0xFFFC) ∧ kindNum df0 ≠ 3
      ∧ seqNum ackM1 < running.snd.base.toNat ∧ (running.snd.next.toNat : Int) ≤ seqNum ack2 :=
  ⟨by decide, invalid (by decide), by decide, by decide, by decide⟩

theorem witness_SndTickCountsAndRetransmits :
    done.snd.st ≠ .run
      ∧ (running.Inv ∧ running.snd.st = .run ∧ running.snd.stcnt.toNat + 1 ≠ running.snd.rto.toNat)
      ∧ runningLast.Inv ∧ runningLast.snd.st = .run ∧ runningLast.snd.stcnt.toNat + 1 = runningLast.snd.rto.toNat :=
  ⟨by decide, ⟨inv_running, rfl, by decide⟩, inv_runningLast, rfl, by decide⟩

theorem witness_TimeoutFiresOnTheRtoThTick : running.Inv ∧ running.snd.st = .run ∧ running.snd.stcnt = 0
    ∧ 2 < running.snd.rto.toNat := ⟨inv_running, rfl, rfl, by decide⟩

theorem witness_SndTxerrAndSndAbortEndTheSession : running.snd.st = .run := rfl

/-- A retransmission in RUN and an SND_START in READY. -/
theorem witness_RetransmissionsAreByteIdentical :
    (runningLast.Inv ∧ runningLast.snd.st = .run ∧ ready.Inv ∧ ready.snd.st = .ready)
      ∧ (shows (exec .sndTick runningLast) fun t => t.snd.st) = some .run
      ∧ (shows (step { runningLast with port := [0x85000000] }) fun t => t.snd.st) = some .run
      ∧ (shows (step { ready with port := [0x82000000] }) fun t => t.snd.st) = some .run :=
  ⟨⟨inv_runningLast, rfl, inv_ready, rfl⟩, by decide, by decide, by decide⟩

/-- The last ACK ends the session, an earlier one does not. -/
theorem witness_DoneExactlyOnTheLastAck :
    runningLast.Inv ∧ runningLast.snd.st = .run
      ∧ (shows (step { runningLast with port := [0x83000016, 2, 3, 0, 0, 0, 0xFFFA0000] }) fun t => t.snd.st) = some .done
      ∧ (shows (step { runningLast with port := [0x83000016, 1, 3, 0, 0, 0, 0xFFFB0000] }) fun t => t.snd.st) = some .run
      ∧ runningLast.snd.next = runningLast.snd.numpkt :=
  ⟨inv_runningLast, rfl, by decide, by decide, rfl⟩

theorem witness_RcvOpenIssuesTheRequest :
    Spec.rcvOpen s0 ∧ Spec.rcvOpen received ∧ ([] : Bytes).length ≤ s0.params.n.toNat
      ∧ ([1, 2, 3, 4, 5, 6, 7, 8] : Bytes).length ≤ s0.params.n.toNat :=
  ⟨.inl rfl, .inr rfl, by decide, by decide⟩

/-- A Data and a FinalData frame. -/
theorem witness_RcvRxAcceptsTheExpectedFrame :
    (receiving.rcv.st = .receiving ∧ FrameValid receiving.params df0 ∧ kindNum df0 = 0
        ∧ num32 df0 0 = receiving.rcv.expected.toNat)
      ∧ (rcvAt .receiving 2 0 0).rcv.st = .receiving ∧ FrameValid p8 df2 ∧ kindNum df2 = 1
        ∧ num32 df2 0 = (rcvAt .receiving 2 0 0).rcv.expected.toNat :=
  ⟨⟨rfl, valid (by decide), by decide, by decide⟩, rfl, valid (by decide), by decide, by decide⟩

/-- One witness for each clause: FINAL_ACK_SENT, a corrupt frame, a valid Request, an out-of-order frame; DONE. -/
theorem witness_RcvRxAnswersOrIgnoresOtherFrames :
    (finalAck.rcv.st = .finalAckSent ∧ receiving.rcv.st = .receiving
        ∧ ¬ FrameValid receiving.params (frame 0 0 8 0x41424344 0x45464748 0)
        ∧ 1 < kindNum (frame 0 2 5 0x662E7478 0x74000000 0xB151) ∧ num32 df1 0 ≠ receiving.rcv.expected.toNat)
      ∧ received.rcv.st ≠ .receiving ∧ received.rcv.st ≠ .finalAckSent :=
  ⟨⟨rfl, rfl, invalid (by decide), by decide, by decide⟩, by decide, by decide⟩

theorem witness_RcvTickCountsTheTimeWait :
    receiving.rcv.st ≠ .finalAckSent
      ∧ (finalAck.Inv ∧ finalAck.rcv.st = .finalAckSent ∧ finalAck.rcv.twcnt.toNat + 1 ≠ finalAck.rcv.twdur.toNat)
      ∧ finalAckLast.Inv ∧ finalAckLast.rcv.st = .finalAckSent
      ∧ finalAckLast.rcv.twcnt.toNat + 1 = finalAckLast.rcv.twdur.toNat :=
  ⟨by decide, ⟨inv_finalAck, rfl, by decide⟩, inv_finalAckLast, rfl, by decide⟩

theorem witness_RcvTxerrAndRcvAbortEndTheSession :
    receiving.rcv.st = .receiving ∧ finalAck.rcv.st = .finalAckSent := ⟨rfl, rfl⟩

/-- One tick too few and exactly enough, among other commands. -/
theorem witness_TimeWaitEndsOnTheTwdurThTick :
    finalAck.Inv ∧ finalAck.rcv.st = .finalAckSent ∧ finalAck.rcv.twcnt = 0
      ∧ (∀ i ∈ ([.rcvTick, .rcvRx df2, .rcvRxerr] : List Instr), i = .rcvTick ∨ i = .rcvRxerr ∨ ∃ d, i = .rcvRx d)
      ∧ ([.rcvTick, .rcvRx df2, .rcvRxerr] : List Instr).count .rcvTick + 1 = finalAck.rcv.twdur.toNat
      ∧ finalAck.rcv.twdur.toNat ≤ ([.rcvTick, .rcvTick] : List Instr).count .rcvTick :=
  ⟨inv_finalAck, rfl, rfl, by simp, by decide, by decide⟩

theorem witness_DeliveryIsInOrderAndEveryFrameIsAcked : receiving.rcv.st = .receiving := rfl

theorem witness_SinkClosesOnlyAtTheEndOfTheTimeWait :
    (shows (step { finalAckLast with port := [0xC3000000] }) fun t => t.sink.count .close) = some 1
      ∧ finalAckLast.sink.count .close = 0 := by decide

theorem witness_TransferDeliversTheSource :
    ready.Inv ∧ ready.snd.st = .ready ∧ running.Inv ∧ running.snd.st = .run ∧ receiving.params = ready.params
      ∧ receiving.rcv.st = .receiving ∧ receiving.rcv.expected = 0 :=
  ⟨inv_ready, rfl, inv_running, rfl, rfl, rfl, rfl⟩

/-- A channel that corrupts a frame, reorders, repeats and loses. -/
theorem witness_AnyChannelDeliversAPrefixOfTheSource :
    ready.Inv ∧ ready.snd.st = .ready ∧ receiving.params = ready.params ∧ receiving.rcv.st = .receiving
      ∧ receiving.rcv.expected = 0
      ∧ ∀ d ∈ [frame 0 0 8 0x41424344 0x45464748 0, df1, df0, df0],
          ¬ FrameValid ready.params d ∨ ∃ i, i < ready.snd.numpkt.toNat ∧ d = dataFrame ready.params ready.snd i := by
  refine ⟨inv_ready, rfl, rfl, rfl, rfl, ?_⟩
  intro d hd
  simp only [List.mem_cons, List.not_mem_nil, or_false] at hd
  rcases hd with rfl | rfl | rfl | rfl
  · exact .inl (invalid (by decide))
  · exact .inr ⟨1, by decide, by decide⟩
  · exact .inr ⟨0, by decide, by decide⟩
  · exact .inr ⟨0, by decide, by decide⟩

/-- A step that sends and one that acknowledges, from states of the invariant. -/
theorem witness_EveryStepKeepsTheInvariant :
    (ready.Inv ∧ receiving.Inv ∧ failed.Inv)
      ∧ (shows (step { ready with port := [0x82000000] }) fun t => t.stx) = some [df0, df1]
      ∧ (shows (step { receiving with port := [0xC1000016, 0, 0, 8, 0x41424344, 0x45464748, 0xEEE20000] })
          fun t => t.rtx) = some [ack0] :=
  ⟨⟨inv_ready, inv_receiving, inv_failed⟩, by decide, by decide⟩

theorem witness_EmittedFramesAreValid :
    ready.Inv ∧ (shows (step { ready with port := [0x82000000] }) fun t => t.stx) = some [df0, df1] :=
  ⟨inv_ready, by decide⟩

theorem witness_ResetMeetsTheInvariant : p8.Legal := by decide

/-- A reachable state that holds a source. -/
theorem witness_NoReachableStateStops :
    ∃ s, Reachable s ∧ s.snd.st = .loading := by
  have h1 := Reachable.issued (Reachable.powerOn p8 (by decide)) [0x80000001, 0x41000000]
  exact ⟨_, Reachable.stepped h1 rfl, rfl⟩

theorem witness_UnitsShareNoState :
    (shows (exec (.ckAdd 1) running) fun t => t.csu.acc) = some 1 ∧ unitOf (.ckAdd 1) = 1
      ∧ (shows (exec .sndTick running) fun t => t.snd.stcnt) = some 1 ∧ unitOf .sndTick = 2
      ∧ (shows (exec .rcvTick finalAck) fun t => t.rcv.twcnt) = some 1 ∧ unitOf .rcvTick = 3 := by decide

theorem witness_StreamsOnlyGrow :
    (shows (step { runningLast with stx := [df0], port := [0x85000000] }) fun t => t.stx) = some [df0, df1, df2] := by
  decide

/-- Both engines in ERROR: a command that keeps it, and each way out. -/
theorem witness_ErrorIsLeftOnlyByAbortOrReset :
    failed.snd.st = .error .txError ∧ rcvFailed.rcv.st = .error .txError
      ∧ (shows (step { failed with port := [0x82000000] }) fun t => t.snd) = some failed.snd
      ∧ (shows (step { failed with port := [0x87000000] }) fun t => t.snd.st) = some .idle
      ∧ (shows (step { rcvFailed with port := [0xC3000000] }) fun t => t.rcv) = some rcvFailed.rcv
      ∧ (shows (step { rcvFailed with port := [0xC5000000] }) fun t => t.rcv.st) = some .idle := by decide

theorem witness_ConfigurationIsLockedInASession :
    (running.snd.st ≠ .idle ∧ running.snd.st ≠ .done ∧ receiving.rcv.st ≠ .idle ∧ receiving.rcv.st ≠ .done)
      ∧ (shows (step { running with port := [0x03000010, 4] }) fun t => t.snd.wsize) = some 2
      ∧ (shows (step { receiving with port := [0x03000020, 9] }) fun t => t.rcv.twdur) = some 2 := by decide

theorem witness_SessionProgressIsMonotone :
    running.Inv ∧ running.snd.st = .run ∧ receiving.Inv ∧ receiving.rcv.st = .receiving
      ∧ (shows (step { running with port := [0x83000016, 0, 3, 0, 0, 0, 0xFFFC0000] }) fun t => t.snd.base) = some 1
      ∧ (shows (step { receiving with port := [0xC1000016, 0, 0, 8, 0x41424344, 0x45464748, 0xEEE20000] })
          fun t => t.rcv.expected) = some 1 :=
  ⟨inv_running, rfl, inv_receiving, rfl, by decide, by decide⟩

theorem witness_SourceBufferIsWrittenOnlyBySndSrc :
    Memory.wf loading.snd.src
      ∧ (shows (step { loading with port := [0x80000001, 0x55000000] }) fun t => t.snd.src)
        = some (loading.snd.src ++ [(20, 0x55)]) := by decide

end Sys2Proof.Tests
end

/-! SUPPORT and PROOFS for the scope family: waiting for a command (O7), and the receiver fed with the data frames of a
prepared session (O49). The laws of the model come first, the two settled statements stand at the end. -/

namespace Sys2Proof.Machine

/-! ### An incomplete command -/

/-- The decoder waits exactly while the port holds fewer words than the command at its front needs (R70, R75). -/
theorem decode_eq_incomplete_iff (ws : List Word) :
    decode ws = .incomplete ↔ ws = [] ∨ ∃ w rest, ws = w :: rest ∧ ws.length < commandLength w := by
  cases ws with
  | nil => simp [decode]
  | cons w rest =>
    have hcons : (w :: rest = [] ∨ ∃ v tl, w :: rest = v :: tl ∧ (w :: rest).length < commandLength v)
        ↔ rest.length + 1 < commandLength w := by simp
    rw [hcons, decode, commandLength]
    cases Opc.ofCode (opcField w) with
    | none => simp
    | some o =>
      by_cases hk : rest.length < o.dataWords (immField w)
      · simp [hk]; omega
      · cases hr : o.reservedClear w <;> simp [hk, hr] <;> omega

/-- A step without a complete command on the port keeps all the state (R239). -/
theorem step_of_incomplete {s : State} (hr : s.resetIn = false) (hd : decode s.port = .incomplete) :
    step s = .next s := by
  simp [step, fetch, hr, hd]

/-! ### The source cut into packets (R52) -/

/-- Reading n + m bytes is reading n bytes, then m bytes at the address after them. -/
theorem Memory.readBytes_add (src : Memory) (a n m : Nat) :
    src.readBytes a (n + m) = src.readBytes a n ++ src.readBytes (a + n) m := by
  simp [Memory.readBytes, List.range_add, Nat.add_assoc]

theorem sourceBytes_eq_readBytes (g : Sender) : Spec.sourceBytes g = g.src.readBytes 0 g.srclen.toNat := by
  simp [Spec.sourceBytes, Memory.readBytes]

@[simp] theorem packetPayload_length (g : Sender) (i : Nat) : (packetPayload g i).length = packetLen g i := by
  simp [packetPayload]

theorem packetLen_le_maxpay (g : Sender) (i : Nat) : packetLen g i ≤ g.maxpay.toNat := Nat.min_le_left _ _

/-- The first k packets carry the first k * MAXPAY source bytes, or all of them where the source is shorter. -/
theorem flatten_packetPayload (g : Sender) (k : Nat) :
    ((List.range k).map (packetPayload g)).flatten
      = g.src.readBytes 0 (min (k * g.maxpay.toNat) g.srclen.toNat) := by
  induction k with
  | zero => simp [Memory.readBytes]
  | succ k ih =>
    have hcut : min ((k + 1) * g.maxpay.toNat) g.srclen.toNat
        = min (k * g.maxpay.toNat) g.srclen.toNat + packetLen g k := by
      rw [packetLen, packetOff, Nat.succ_mul]; omega
    have hlast : g.src.readBytes (0 + min (k * g.maxpay.toNat) g.srclen.toNat) (packetLen g k)
        = packetPayload g k := by
      by_cases hk : k * g.maxpay.toNat ≤ g.srclen.toNat
      · rw [Nat.min_eq_left hk, Nat.zero_add]; rfl
      · have h0 : packetLen g k = 0 := by rw [packetLen, packetOff]; omega
        rw [packetPayload, h0]; rfl
    rw [hcut, Memory.readBytes_add, hlast, List.range_succ, List.map_append, List.flatten_append, ih]
    simp

/-- The packets of a prepared session reach the end of the source (R143). -/
theorem Sender.Prepared.srclen_le {g : Sender} (h : g.Prepared) (hm : 1 ≤ g.maxpay.toNat) :
    g.srclen.toNat ≤ g.numpkt.toNat * g.maxpay.toNat := by
  rw [h.2, packetCount, ← Nat.ceilDiv_eq_add_pred_div, Nat.mul_comm]
  exact le_smul_ceilDiv (Nat.lt_of_lt_of_le Nat.one_pos hm)

/-- The packets of a prepared session, put together, are the source (R52, R143). -/
theorem Sender.Prepared.flatten_payloads {g : Sender} (h : g.Prepared) (hm : 1 ≤ g.maxpay.toNat) :
    ((List.range g.numpkt.toNat).map (packetPayload g)).flatten = Spec.sourceBytes g := by
  rw [flatten_packetPayload, sourceBytes_eq_readBytes, Nat.min_eq_right (h.srclen_le hm)]

/-- A prepared session has a packet, since its source is not empty (R143). -/
theorem Sender.Prepared.numpkt_pos {g : Sender} (h : g.Prepared) (hm : 1 ≤ g.maxpay.toNat) :
    0 < g.numpkt.toNat :=
  Nat.pos_of_mul_pos_right (Nat.lt_of_lt_of_le h.1 (h.srclen_le hm))

/-- READY and RUN are states of a prepared session. -/
theorem Sender.SessionInv.prepared {g : Sender} (h : g.SessionInv) (hst : g.st = .ready ∨ g.st = .run) :
    g.Prepared := by
  rcases hst with hst | hst <;> rw [Sender.SessionInv, hst] at h
  · obtain ⟨-, -, hp⟩ := h; exact hp
  · obtain ⟨-, hp, -⟩ := h; exact hp

/-! ### Data frames are valid -/

/-- An encoded frame passes the receiver's verification while its payload fits (R107, R109). -/
theorem frameValid_encodeFrame (p : Params) (q : Word) (k : Kind) (pay : Bytes) (hp : p.Legal)
    (h : pay.length ≤ p.n.toNat) : frameValid p (encodeFrame p q k pay) = true := by
  obtain ⟨⟨-, hn⟩, -⟩ := hp
  have h31 : pay.length < 2 ^ 31 := by omega
  have hck : ckField p (encodeFrame p q k pay) = checksum (encodeFrame p q k pay) := by
    rw [ckField_encodeFrame p q k pay h, checksum, cover_encodeFrame p q k pay h31]
  simp [frameValid, wellFormedFrame, lenLegal, encodeFrame_length p q k pay h,
    lenField_encodeFrame p q k pay h31, hck, Kind.code_le, h]

@[simp] theorem seqField_dataFrame (p : Params) (g : Sender) (i : Nat) :
    seqField (dataFrame p g i) = BitVec.ofNat 32 i := seqField_encodeFrame _ _ _ _

/-- Only the last packet of a session is FinalData (R52). -/
theorem kindField_dataFrame_eq_final (p : Params) (g : Sender) (i : Nat) :
    kindField (dataFrame p g i) = Kind.finalData.code ↔ i + 1 = g.numpkt.toNat := by
  rw [dataFrame, kindField_encodeFrame, packetKind]
  by_cases h : i + 1 = g.numpkt.toNat
  · simp [h]
  · simp [h, Kind.code]

theorem packetPayload_length_le {p : Params} {g : Sender} (hg : g.ConfigInv p) (i : Nat) :
    (packetPayload g i).length ≤ p.n.toNat := by
  obtain ⟨-, -, -, hmax⟩ := hg
  exact packetPayload_length g i ▸ (packetLen_le_maxpay g i).trans hmax

theorem payload_dataFrame {p : Params} {g : Sender} (hp : p.Legal) (hg : g.ConfigInv p) (i : Nat) :
    payload (dataFrame p g i) = packetPayload g i := by
  obtain ⟨⟨-, hn⟩, -⟩ := hp
  have hlen := packetPayload_length_le hg i
  exact payload_encodeFrame _ _ _ _ (by omega)

theorem dataValid_dataFrame {p : Params} {g : Sender} (hp : p.Legal) (hg : g.ConfigInv p) (i : Nat) :
    dataValid p (dataFrame p g i) = true := by
  have hv : frameValid p (dataFrame p g i) = true :=
    frameValid_encodeFrame p _ _ _ hp (packetPayload_length_le hg i)
  have hk : kindField (dataFrame p g i) = Kind.data.code ∨ kindField (dataFrame p g i) = Kind.finalData.code := by
    rw [dataFrame, kindField_encodeFrame, packetKind]
    split_ifs
    · exact .inr rfl
    · exact .inl rfl
  simp [dataValid, hv, hk]

/-! ### The accept of a frame (R174) -/

section accept

variable (d : Bytes) (s : State)

@[simp] theorem acceptFrame_params : (acceptFrame d s).params = s.params := by
  unfold acceptFrame; split <;> rfl

@[simp] theorem acceptFrame_sink : (acceptFrame d s).sink = s.sink ++ [.bytes (payload d)] := by
  unfold acceptFrame; split <;> rfl

@[simp] theorem acceptFrame_expected : (acceptFrame d s).rcv.expected = s.rcv.expected + 1 := by
  unfold acceptFrame; split <;> rfl

/-- The frame accepted is the one acknowledged: its SEQ was EXPECTED. -/
@[simp] theorem acceptFrame_rtx : (acceptFrame d s).rtx = s.rtx ++ [ackFrame s.params s.rcv.expected] := by
  unfold acceptFrame; split <;> simp

theorem acceptFrame_st : (acceptFrame d s).rcv.st
    = if kindField d = Kind.finalData.code then .finalAckSent else s.rcv.st := by
  unfold acceptFrame; split <;> rfl

theorem acceptFrame_twcnt : (acceptFrame d s).rcv.twcnt
    = if kindField d = Kind.finalData.code then 0 else s.rcv.twcnt := by
  unfold acceptFrame; split <;> rfl

variable {d s}

theorem exec_rcvRx_accepts (hst : s.rcv.st = .receiving) (hv : dataValid s.params d = true)
    (hq : seqField d = s.rcv.expected) : exec (.rcvRx d) s = .next (acceptFrame d s) := by
  simp [exec, execRcvRx, hst, hv, hq]

end accept

/-! ### Delivering a session in order (R174, R180) -/

/-- Performing a list of commands and then one more. -/
theorem perform_append (is js : List Instr) (s : State) :
    Spec.perform (is ++ js) s = andThen (Spec.perform is s) (Spec.perform js) := by
  induction is generalizing s with
  | nil => rfl
  | cons i is ih =>
    simp only [List.cons_append, Spec.perform]
    cases exec i s with
    | next u => exact ih u
    | fault x => rfl
    | refused x => rfl

theorem framesFrom_zero (s : State) (n : Nat) :
    Spec.framesFrom s 0 n = (List.range n).map (dataFrame s.params s.snd) := by
  simp [Spec.framesFrom]

/-- The receiver `t` is `r` after exactly the first `k` packets of the sender's session were delivered and
acknowledged; on the last one it has gone on to the time-wait. -/
structure DeliveredPackets (g : Sender) (r t : State) (k : Nat) : Prop where
  params : t.params = r.params
  expected : t.rcv.expected = BitVec.ofNat 32 k
  st : t.rcv.st = if k = g.numpkt.toNat then .finalAckSent else .receiving
  twcnt : k = g.numpkt.toNat → t.rcv.twcnt = 0
  sink : t.sink = r.sink ++ (List.range k).map fun i => .bytes (packetPayload g i)
  rtx : t.rtx = r.rtx ++ (List.range k).map fun i => encodeFrame r.params (BitVec.ofNat 32 i) .ack []

/-- A session just opened has delivered no packet. -/
theorem DeliveredPackets.zero {g : Sender} {r : State} (hn : 0 < g.numpkt.toNat) (hst : r.rcv.st = .receiving)
    (he : r.rcv.expected = 0) : DeliveredPackets g r r 0 where
  params := rfl
  expected := he
  st := by rw [hst, if_neg (by omega)]
  twcnt h := absurd h (by omega)
  sink := by simp
  rtx := by simp

/-- The next packet's frame is accepted, and is one more packet delivered. -/
theorem DeliveredPackets.succ {g : Sender} {r t : State} {k : Nat} (hd : DeliveredPackets g r t k)
    (hp : r.params.Legal) (hg : g.ConfigInv r.params) (hk : k < g.numpkt.toNat) :
    ∃ u, exec (.rcvRx (dataFrame r.params g k)) t = .next u ∧ DeliveredPackets g r u (k + 1) := by
  have hst : t.rcv.st = .receiving := by rw [hd.st, if_neg (by omega)]
  have hfinal := kindField_dataFrame_eq_final r.params g k
  refine ⟨_, exec_rcvRx_accepts hst (hd.params ▸ dataValid_dataFrame hp hg k) (by simp [hd.expected]), ?_⟩
  exact {
    params := by simp [hd.params]
    expected := by simp [hd.expected, BitVec.ofNat_add]
    st := by simp only [acceptFrame_st, hfinal, hst]
    twcnt := fun h => by simp [acceptFrame_twcnt, hfinal, h]
    sink := by simp [hd.sink, payload_dataFrame hp hg, List.range_succ]
    rtx := by simp [hd.rtx, hd.params, hd.expected, ackFrame, List.range_succ] }

/-- The first k data frames, in order, deliver the first k packets. -/
theorem perform_dataFrames {g : Sender} {r : State} (hp : r.params.Legal) (hg : g.ConfigInv r.params)
    (h0 : DeliveredPackets g r r 0) (k : Nat) (hk : k ≤ g.numpkt.toNat) :
    ∃ t, Spec.perform (((List.range k).map (dataFrame r.params g)).map .rcvRx) r = .next t
      ∧ DeliveredPackets g r t k := by
  induction k with
  | zero => exact ⟨r, rfl, h0⟩
  | succ k ih =>
    obtain ⟨t, ht, hd⟩ := ih (by omega)
    obtain ⟨u, hu, hd'⟩ := hd.succ hp hg (by omega)
    refine ⟨u, ?_, hd'⟩
    rw [List.range_succ, List.map_append, List.map_append, perform_append, ht]
    simp [Spec.perform, hu]

end Sys2Proof.Machine

namespace Sys2Proof.Proofs

open Sys2Proof.Machine Sys2Proof.Spec

/-- Settles O7: the two cases of the statement are exactly those in which the decoder finds no complete command. -/
theorem incompleteCommandsWait : Obligations.IncompleteCommandsWait :=
  fun s hr hport => step_of_incomplete hr ((decode_eq_incomplete_iff s.port).2 hport)

/-- Settles O49, by induction on the number of packets delivered (`perform_dataFrames`); that the packets are the source
is `Sender.Prepared.flatten_payloads`. -/
theorem transferDeliversTheSource : Obligations.TransferDeliversTheSource := by
  intro s r hs hsnd hpar hrcv hexp n
  have hprep := hs.session.prepared hsnd
  obtain ⟨-, -, hmax, -⟩ := hs.config
  have h0 : DeliveredPackets s.snd r r 0 := .zero (hprep.numpkt_pos hmax) hrcv hexp
  obtain ⟨t, ht, hd⟩ := perform_dataFrames (hpar ▸ hs.params) (hpar ▸ hs.config) h0 n le_rfl
  refine ⟨t, ?_, ?_, ?_, hd.twcnt rfl, hd.sink, hprep.flatten_payloads hmax, hd.rtx⟩
  · rw [framesFrom_zero, ← hpar, ht]
  · rw [hd.st, if_pos rfl]
  · rw [hd.expected, BitVec.ofNat_toNat, BitVec.setWidth_eq]

end Sys2Proof.Proofs

/-! SUPPORT and PROOFS for the state family: the invariant is kept (O51), and the progress of a session (O59). What one
step can make of each engine is said once, by `SenderMove` and `ReceiverMove`; `step_engineMoves` ties the two to the
model's step, and both statements are read off the moves. -/

namespace Sys2Proof.Machine

/-! ### The moves of the sender -/

/-- The sender after `ClearSession()` (R141). -/
def Sender.cleared (g : Sender) : Sender :=
  disarmTimer { g with st := .idle, base := 0, next := 0, numpkt := 0, srclen := 0, src := [] }

/-- The sender in RUN with BASE at `b` and its window full: NEXT at the limit of Fill, the timer in a
fresh period (R140, R145). -/
def Sender.filled (g : Sender) (b : Word) : Sender :=
  { g with st := .run, base := b, next := BitVec.ofNat 32 (min (b.toNat + g.wsize.toNat) g.numpkt.toNat)
           armed := true, stcnt := 0 }

@[simp] theorem Sender.filled_base (g : Sender) (b : Word) : (g.filled b).base = b := rfl
@[simp] theorem Sender.filled_wsize (g : Sender) (b : Word) : (g.filled b).wsize = g.wsize := rfl

theorem Sender.filled_next_toNat (g : Sender) (b : Word) :
    (g.filled b).next.toNat = min (b.toNat + g.wsize.toNat) g.numpkt.toNat := by
  rw [Sender.filled, BitVec.toNat_ofNat]
  exact Nat.mod_eq_of_lt ((Nat.min_le_right _ _).trans_lt g.numpkt.isLt)

/-- What one step can make of a sender, from a state of the invariant. -/
inductive SenderMove (p : Params) : Sender → Sender → Prop where
  | keep {g : Sender} : SenderMove p g g
  /-- R240 -/
  | reset {g : Sender} : SenderMove p g (.reset p)
  /-- R152 -/
  | abort {g : Sender} : SenderMove p g g.cleared
  /-- SND_SRC or SND_EOF in DONE: first the finished session is cleared (R142, R143) -/
  | newSession {g g' : Sender} (hst : g.st = .done) (h : SenderMove p g.cleared g') : SenderMove p g g'
  /-- a write to WSIZE, RTO or MAXPAY (R103) -/
  | configure {g : Sender} (w r m : Word) (hst : g.st = .idle ∨ g.st = .done)
      (hc : Sender.ConfigInv p { g with wsize := w, rto := r, maxpay := m }) :
      SenderMove p g { g with wsize := w, rto := r, maxpay := m }
  /-- R142 -/
  | load {g : Sender} (d : Bytes) (hst : g.st = .idle ∨ g.st = .loading)
      (hcap : g.srclen.toNat + d.length ≤ p.srcCap.toNat) :
      SenderMove p g { g with
        src := g.src.writeBytes g.srclen.toNat d, srclen := BitVec.ofNat 32 (g.srclen.toNat + d.length), st := .loading }
  /-- SND_EOF on an empty source (R143) -/
  | emptySource {g : Sender} (hst : g.st = .idle ∨ g.st = .loading) (hlen : g.srclen = 0) :
      SenderMove p g (disarmTimer { g with st := .error .emptySource })
  /-- SND_EOF on a source that holds bytes (R143) -/
  | prepare {g : Sender} (hst : g.st = .idle ∨ g.st = .loading) (hlen : g.srclen ≠ 0) :
      SenderMove p g { g with numpkt := BitVec.ofNat 32 (packetCount g), base := 0, next := 0, st := .ready }
  /-- R144 -/
  | start {g : Sender} (hst : g.st = .ready) : SenderMove p g (g.filled 0)
  /-- an accepted Ack that leaves packets outstanding or unsent (R145) -/
  | advance {g : Sender} (b : Word) (hst : g.st = .run) (hb : g.base.toNat < b.toNat) (hn : b.toNat < g.numpkt.toNat) :
      SenderMove p g (g.filled b)
  /-- the accepted Ack of the last packet (R145, R153) -/
  | finish {g : Sender} (hst : g.st = .run) (hn : g.next = g.numpkt) :
      SenderMove p g { disarmTimer { g with base := g.numpkt } with st := .done }
  /-- a counted tick, or the timeout, which restarts the count (R150) -/
  | tick {g : Sender} (c : Word) (hst : g.st = .run) (ha : g.armed = true) (hc : c.toNat < g.rto.toNat) :
      SenderMove p g { g with stcnt := c }
  /-- R151 -/
  | txError {g : Sender} (hst : g.st = .run) : SenderMove p g (disarmTimer { g with st := .error .txError })

/-! ### The moves of the receiver -/

/-- What one step can make of a receiver, and the items it delivers on SINK with it. -/
inductive ReceiverMove (p : Params) (r : Receiver) : Receiver → List SinkItem → Prop where
  | keep : ReceiverMove p r r []
  /-- R240 -/
  | reset : ReceiverMove p r (.reset p) []
  /-- R179 -/
  | abort : ReceiverMove p r { r with st := .idle, expected := 0, lastkind := 0xFF, twcnt := 0 } []
  /-- a write to TWDUR (R103) -/
  | configure (v : Word) (hst : r.st = .idle ∨ r.st = .done) (hv : v ≠ 0) : ReceiverMove p r { r with twdur := v } []
  /-- R172 -/
  | opened (hst : r.st = .idle ∨ r.st = .done) :
      ReceiverMove p r { r with st := .receiving, expected := 0, lastkind := 0xFF, twcnt := 0 } []
  /-- the expected Data frame (R174) -/
  | acceptData (pay : Bytes) (hst : r.st = .receiving) :
      ReceiverMove p r { r with expected := r.expected + 1, lastkind := 0 } [.bytes pay]
  /-- the expected FinalData frame (R174) -/
  | acceptFinal (pay : Bytes) (hst : r.st = .receiving) :
      ReceiverMove p r { r with expected := r.expected + 1, lastkind := 1, st := .finalAckSent, twcnt := 0 } [.bytes pay]
  /-- a tick before the TWDUR-th (R177) -/
  | count (c : Word) (hst : r.st = .finalAckSent) (hc : c.toNat < r.twdur.toNat) :
      ReceiverMove p r { r with twcnt := c } []
  /-- the TWDUR-th tick (R177) -/
  | close (c : Word) (hst : r.st = .finalAckSent) : ReceiverMove p r { r with twcnt := c, st := .done } [.close]
  /-- R178 -/
  | txError (hst : r.st = .receiving ∨ r.st = .finalAckSent) :
      ReceiverMove p r { r with st := .error .txError, twcnt := 0 } []

/-- What a step does to the registers the invariant speaks of, and to SINK. -/
structure EngineMoves (s t : State) : Prop where
  params : t.params = s.params
  err : t.err = s.err ∨ t.err = .clear ∨ ∃ c, t.err = errOfRefusal c
  snd : SenderMove s.params s.snd t.snd
  rcv : ∃ items, ReceiverMove s.params s.rcv t.rcv items ∧ t.sink = s.sink ++ items

/-! ### The sender's moves keep its invariant -/

/-- The part of `State.Inv` that speaks of the sender. -/
structure Sender.Inv (p : Params) (g : Sender) : Prop where
  config : g.ConfigInv p
  window : g.WindowInv
  timer : g.TimerInv
  session : g.SessionInv
  source : g.SourceInv p

theorem State.Inv.sender {s : State} (h : s.Inv) : s.snd.Inv s.params :=
  ⟨h.config, h.window, h.timer, h.session, h.source⟩

theorem State.inv_iff (s : State) :
    s.Inv ↔ s.params.Legal ∧ s.err.Inv ∧ s.snd.Inv s.params ∧ s.rcv.Inv :=
  ⟨fun h => ⟨h.params, h.err, h.sender, h.receiver⟩,
    fun ⟨hp, he, hs, hr⟩ => ⟨hp, he, hs.config, hs.window, hs.timer, hs.session, hs.source, hr⟩⟩

/-- Outside RUN the timer has to be released (R38). -/
theorem Sender.timerInv_of_disarmed {g : Sender} (hst : g.st ≠ .run) (ha : g.armed = false) (hc : g.stcnt = 0) :
    g.TimerInv := by
  simp [Sender.TimerInv, ha, hc, hst]

/-- In a window that is not empty the timer has to run (R38). -/
theorem Sender.timerInv_of_armed {g : Sender} (hst : g.st = .run) (hw : g.base.toNat < g.next.toNat)
    (ha : g.armed = true) (hc : g.stcnt.toNat < g.rto.toNat) : g.TimerInv := by
  simp [Sender.TimerInv, ha, hc, hst, hw]

/-- No packet of a source is empty, so there are at most SRCLEN of them (R143). -/
theorem packetCount_le_srclen {g : Sender} (hm : 1 ≤ g.maxpay.toNat) : packetCount g ≤ g.srclen.toNat := by
  rw [packetCount, ← Nat.ceilDiv_eq_add_pred_div, ceilDiv_le_iff_le_smul (by omega)]
  exact Nat.le_mul_of_pos_left _ hm

namespace Sender.Inv

variable {p : Params} {g : Sender}

theorem disarmed (hi : g.Inv p) (hst : g.st ≠ .run) : g.armed = false ∧ g.stcnt = 0 := by
  obtain ⟨harmed, -, hzero⟩ := hi.timer
  have ha : g.armed = false := Bool.eq_false_iff.2 fun h => hst (harmed.1 h).1
  exact ⟨ha, hzero ha⟩

theorem unprepared (hi : g.Inv p) (hst : g.st = .idle ∨ g.st = .loading) : g.Unprepared := by
  have hs := hi.session
  rcases hst with hst | hst <;> rw [Sender.SessionInv, hst] at hs
  · exact hs.1
  · exact hs

theorem ready_base (hi : g.Inv p) (hst : g.st = .ready) : g.base = 0 := by
  have hs := hi.session
  rw [Sender.SessionInv, hst] at hs
  exact hs.1

theorem run_window (hi : g.Inv p) (hst : g.st = .run) :
    g.base.toNat < g.next.toNat ∧ g.next.toNat = fillLimit g := by
  have hs := hi.session
  rw [Sender.SessionInv, hst] at hs
  obtain ⟨hlt, -, hfull⟩ := hs
  exact ⟨hlt, hfull⟩

theorem run_armed (hi : g.Inv p) (hst : g.st = .run) : g.armed = true :=
  hi.timer.1.2 ⟨hst, (hi.run_window hst).1⟩

theorem reset (hp : p.Legal) : (Sender.reset p).Inv p := by
  obtain ⟨⟨hn, -⟩, -, hrto, -⟩ := hp
  exact {
    config := ⟨(by decide : 1 ≤ Config.wsizeReset.toNat ∧ Config.wsizeReset.toNat ≤ 0x7FFFFFFF), hrto, hn, le_rfl⟩
    window := by simp [Sender.WindowInv, Sender.reset]
    timer := timerInv_of_disarmed nofun rfl rfl
    session := ⟨⟨rfl, rfl, rfl⟩, rfl⟩
    source := by simp [Sender.SourceInv, Sender.reset] }

theorem cleared (hi : g.Inv p) : g.cleared.Inv p where
  config := hi.config
  window := by simp [Sender.WindowInv, Sender.cleared]
  timer := timerInv_of_disarmed nofun rfl rfl
  session := ⟨⟨rfl, rfl, rfl⟩, rfl⟩
  source := by simp [Sender.SourceInv, Sender.cleared]

theorem configure (hi : g.Inv p) {w r m : Word} (hst : g.st = .idle ∨ g.st = .done)
    (hc : Sender.ConfigInv p { g with wsize := w, rto := r, maxpay := m }) :
    Sender.Inv p { g with wsize := w, rto := r, maxpay := m } := by
  have hrun : g.st ≠ .run := fun h => by simp [h] at hst
  obtain ⟨ha, hz⟩ := hi.disarmed hrun
  have hs := hi.session
  have hempty : g.base = g.next := by
    rcases hst with hst | hst <;> rw [Sender.SessionInv, hst] at hs
    · obtain ⟨⟨hb, hn, -⟩, -⟩ := hs
      rw [hb, hn]
    · obtain ⟨hb, hn, -⟩ := hs
      rw [hb, hn]
  obtain ⟨hbn, hnn, -⟩ := hi.window
  exact {
    config := hc
    window := ⟨hbn, hnn, by simp [hempty]⟩
    timer := timerInv_of_disarmed hrun ha hz
    session := by rcases hst with hst | hst <;> simpa only [Sender.SessionInv, hst] using hs
    source := hi.source }

theorem load (hi : g.Inv p) (hp : p.Legal) {d : Bytes} (hst : g.st = .idle ∨ g.st = .loading)
    (hcap : g.srclen.toNat + d.length ≤ p.srcCap.toNat) :
    Sender.Inv p { g with
      src := g.src.writeBytes g.srclen.toNat d, srclen := BitVec.ofNat 32 (g.srclen.toNat + d.length)
      st := .loading } := by
  obtain ⟨ha, hz⟩ := hi.disarmed fun h => by simp [h] at hst
  obtain ⟨hbase, hnext, hnum⟩ := hi.unprepared hst
  obtain ⟨-, -, hkeys⟩ := hi.source
  have hlen : (BitVec.ofNat 32 (g.srclen.toNat + d.length)).toNat = g.srclen.toNat + d.length := by
    obtain ⟨-, ⟨-, hmax⟩, -⟩ := hp
    rw [BitVec.toNat_ofNat]; omega
  exact {
    config := hi.config
    window := hi.window
    timer := timerInv_of_disarmed nofun ha hz
    session := ⟨hbase, hnext, hnum⟩
    source := ⟨hlen.trans_le hcap, by simp [hnum], (Memory.writeBytes_keys d _ _ hkeys).trans (congrArg _ hlen.symm)⟩ }

theorem emptySource (hi : g.Inv p) (hst : g.st = .idle ∨ g.st = .loading) (hlen : g.srclen = 0) :
    Sender.Inv p (disarmTimer { g with st := .error .emptySource }) where
  config := hi.config
  window := hi.window
  timer := timerInv_of_disarmed nofun rfl rfl
  session := ⟨hi.unprepared hst, hlen⟩
  source := hi.source

theorem prepare (hi : g.Inv p) (hst : g.st = .idle ∨ g.st = .loading) (hlen : g.srclen ≠ 0) :
    Sender.Inv p { g with numpkt := BitVec.ofNat 32 (packetCount g), base := 0, next := 0, st := .ready } := by
  obtain ⟨ha, hz⟩ := hi.disarmed fun h => by simp [h] at hst
  obtain ⟨-, -, hmax, -⟩ := hi.config
  obtain ⟨hcap, -, hkeys⟩ := hi.source
  have hle : packetCount g ≤ g.srclen.toNat := packetCount_le_srclen hmax
  have hnum : (BitVec.ofNat 32 (packetCount g)).toNat = packetCount g := by
    rw [BitVec.toNat_ofNat]
    exact Nat.mod_eq_of_lt (hle.trans_lt g.srclen.isLt)
  have hpos : 1 ≤ g.srclen.toNat := Nat.one_le_iff_ne_zero.2 fun h => hlen (BitVec.eq_of_toNat_eq h)
  exact {
    config := hi.config
    window := by simp [Sender.WindowInv]
    timer := timerInv_of_disarmed nofun ha hz
    session := ⟨rfl, rfl, hpos, hnum⟩
    source := ⟨hcap, hnum.trans_le hle, hkeys⟩ }

theorem filled (hi : g.Inv p) {b : Word} (hprep : g.Prepared) (hb : b.toNat < g.numpkt.toNat) :
    (g.filled b).Inv p := by
  obtain ⟨⟨hw, -⟩, hrto, -⟩ := hi.config
  have hnext := g.filled_next_toNat b
  have hlt : (g.filled b).base.toNat < (g.filled b).next.toNat := by
    rw [hnext, Sender.filled_base]; omega
  exact {
    config := hi.config
    window := ⟨hlt.le, hnext.trans_le (Nat.min_le_right _ _), by rw [hnext, Sender.filled_base, Sender.filled_wsize]; omega⟩
    timer := timerInv_of_armed rfl hlt rfl hrto
    session := ⟨hlt, hprep, hnext⟩
    source := hi.source }

theorem finish (hi : g.Inv p) (hst : g.st = .run) (hn : g.next = g.numpkt) :
    Sender.Inv p { disarmTimer { g with base := g.numpkt } with st := .done } where
  config := hi.config
  window := by simp [Sender.WindowInv, hn]
  timer := timerInv_of_disarmed nofun rfl rfl
  session := ⟨rfl, hn, hn ▸ Nat.one_le_of_lt (hi.run_window hst).1⟩
  source := hi.source

theorem tick (hi : g.Inv p) (hst : g.st = .run) {c : Word} (hc : c.toNat < g.rto.toNat) :
    Sender.Inv p { g with stcnt := c } where
  config := hi.config
  window := hi.window
  timer := timerInv_of_armed hst (hi.run_window hst).1 (hi.run_armed hst) hc
  session := hi.session
  source := hi.source

theorem txError (hi : g.Inv p) (hst : g.st = .run) :
    Sender.Inv p (disarmTimer { g with st := .error .txError }) where
  config := hi.config
  window := hi.window
  timer := timerInv_of_disarmed nofun rfl rfl
  session := ⟨(hi.run_window hst).1, hi.session.prepared (.inr hst)⟩
  source := hi.source

end Sender.Inv

theorem SenderMove.inv {p : Params} {g g' : Sender} (h : SenderMove p g g') (hp : p.Legal) (hi : g.Inv p) :
    g'.Inv p := by
  induction h with
  | keep => exact hi
  | reset => exact .reset hp
  | abort => exact hi.cleared
  | newSession _ _ ih => exact ih hi.cleared
  | configure w r m hst hc => exact hi.configure hst hc
  | load d hst hcap => exact hi.load hp hst hcap
  | emptySource hst hlen => exact hi.emptySource hst hlen
  | prepare hst hlen => exact hi.prepare hst hlen
  | start hst =>
    have hprep := hi.session.prepared (.inl hst)
    obtain ⟨-, -, hmax, -⟩ := hi.config
    exact hi.filled hprep (hprep.numpkt_pos hmax)
  | advance b hst _ hn => exact hi.filled (hi.session.prepared (.inr hst)) hn
  | finish hst hn => exact hi.finish hst hn
  | tick c hst _ hc => exact hi.tick hst hc
  | txError hst => exact hi.txError hst

/-- From READY and RUN a move that does not clear the session leaves BASE or raises it (R38 (c)). -/
theorem SenderMove.base_le {p : Params} {g g' : Sender} (h : SenderMove p g g') (hi : g.Inv p)
    (hst : g.st = .ready ∨ g.st = .run) (hidle : g'.st ≠ .idle) : g.base.toNat ≤ g'.base.toNat := by
  cases h with
  | keep | tick | txError => exact le_rfl
  | reset | abort => exact absurd rfl hidle
  | newSession hst' => simp [hst'] at hst
  | configure _ _ _ hst' | load _ hst' | emptySource hst' | prepare hst' =>
    rcases hst' with hst' | hst' <;> simp [hst'] at hst
  | start hst' => simp [hi.ready_base hst']
  | advance b _ hb => exact hb.le
  | finish =>
    obtain ⟨hbn, hnn, -⟩ := hi.window
    exact hbn.trans hnn

/-! ### The receiver's moves keep its invariant -/

theorem ReceiverMove.inv {p : Params} {r r' : Receiver} {items : List SinkItem} (h : ReceiverMove p r r' items)
    (hp : p.Legal) (hi : r.Inv) : r'.Inv := by
  obtain ⟨htw, hs⟩ := hi
  cases h with
  | keep => exact ⟨htw, hs⟩
  | reset =>
    obtain ⟨-, -, -, htwdur⟩ := hp
    exact ⟨htwdur, rfl, rfl, rfl⟩
  | abort => exact ⟨htw, rfl, rfl, rfl⟩
  | configure v hst hv =>
    refine ⟨Nat.one_le_iff_ne_zero.2 fun h => hv (BitVec.eq_of_toNat_eq h), ?_⟩
    rcases hst with hst | hst <;> simpa only [hst] using hs
  | opened => exact ⟨htw, .inr rfl, rfl⟩
  | acceptData _ hst =>
    simp only [hst] at hs
    refine ⟨htw, ?_⟩
    simpa [hst] using hs.2
  | acceptFinal => exact ⟨htw, rfl, htw⟩
  | count c hst hc =>
    simp only [hst] at hs
    refine ⟨htw, ?_⟩
    simpa only [hst] using ⟨hs.1, hc⟩
  | close c hst =>
    simp only [hst] at hs
    exact ⟨htw, hs.1⟩
  | txError hst =>
    refine ⟨htw, ?_, rfl⟩
    rcases hst with hst | hst <;> simp only [hst] at hs
    · exact hs.1.imp_right .inr
    · exact .inr (.inl hs.1)

/-- While the session lasts EXPECTED grows only by an accept, which delivers one item (R39 (a)). -/
theorem ReceiverMove.expected_cases {p : Params} {r r' : Receiver} {items : List SinkItem}
    (h : ReceiverMove p r r' items) (hst : r.st = .receiving ∨ r.st = .finalAckSent) (hidle : r'.st ≠ .idle) :
    r'.expected = r.expected
      ∨ r'.expected = r.expected + 1 ∧ r.st = .receiving ∧ ∃ pay, items = [.bytes pay] := by
  cases h with
  | keep | configure | count | close | txError => exact .inl rfl
  | reset | abort => exact absurd rfl hidle
  | opened hst' => rcases hst' with hst' | hst' <;> simp [hst'] at hst
  | acceptData pay hst' | acceptFinal pay hst' => exact .inr ⟨rfl, hst', pay, rfl⟩

/-! ### Counters -/

/-- A count below a bound does not wrap. -/
theorem toNat_add_one_of_lt {c m : Word} (h : c.toNat < m.toNat) : (c + 1).toNat = c.toNat + 1 := by
  have := m.isLt
  rw [BitVec.toNat_add_of_lt (by simp; omega)]
  simp

/-- A count that has not reached its bound stays below it. -/
theorem add_one_lt_of_ne {c m : Word} (h : c.toNat < m.toNat) (hne : c + 1 ≠ m) : (c + 1).toNat < m.toNat :=
  Nat.lt_of_le_of_ne ((toNat_add_one_of_lt h).trans_le h) fun he => hne (BitVec.eq_of_toNat_eq he)

/-! ### The commands make these moves -/

theorem ErrReg.inv_clear : ErrReg.clear.Inv := by decide

theorem errOfRefusal_inv (c : RefuseCause) : (errOfRefusal c).Inv := by cases c <;> decide

theorem EngineMoves.inv {s t : State} (h : EngineMoves s t) (hi : s.Inv) : t.Inv := by
  obtain ⟨items, hrcv, -⟩ := h.rcv
  rw [State.inv_iff, h.params]
  refine ⟨hi.params, ?_, h.snd.inv hi.params hi.sender, hrcv.inv hi.params hi.receiver⟩
  rcases h.err with h | h | ⟨c, h⟩ <;> rw [h]
  · exact hi.err
  · exact ErrReg.inv_clear
  · exact errOfRefusal_inv c

namespace EngineMoves

variable {s t : State}

/-- Neither engine changes. -/
theorem of_frame (hp : t.params = s.params) (he : t.err = s.err ∨ t.err = .clear ∨ ∃ c, t.err = errOfRefusal c)
    (hs : t.snd = s.snd) (hr : t.rcv = s.rcv) (hk : t.sink = s.sink) : EngineMoves s t :=
  ⟨hp, he, hs ▸ .keep, [], hr ▸ .keep, by simp [hk]⟩

/-- Only the sender moves. -/
theorem of_snd (hp : t.params = s.params) (he : t.err = s.err) (hr : t.rcv = s.rcv) (hk : t.sink = s.sink)
    (hs : SenderMove s.params s.snd t.snd) : EngineMoves s t :=
  ⟨hp, .inl he, hs, [], hr ▸ .keep, by simp [hk]⟩

/-- Only the receiver moves. -/
theorem of_rcv {items : List SinkItem} (hp : t.params = s.params) (he : t.err = s.err) (hs : t.snd = s.snd)
    (hr : ReceiverMove s.params s.rcv t.rcv items) (hk : t.sink = s.sink ++ items) : EngineMoves s t :=
  ⟨hp, .inl he, hs ▸ .keep, items, hr, hk⟩

theorem refl (s : State) : EngineMoves s s := .of_frame rfl (.inl rfl) rfl rfl rfl

theorem refuse (c : RefuseCause) (s : State) : EngineMoves s (refuse c s) :=
  .of_frame rfl (.inr (.inr ⟨c, rfl⟩)) rfl rfl rfl

theorem applyReset (s : State) : EngineMoves s (applyReset s) :=
  ⟨rfl, .inr (.inl rfl), .reset, [], .reset, (List.append_nil _).symm⟩

end EngineMoves

/-! #### Global commands -/

theorem SndState.configOpen_iff (st : SndState) : st.configOpen = true ↔ st = .idle ∨ st = .done := by
  cases st <;> simp [SndState.configOpen]

theorem RcvState.configOpen_iff (st : RcvState) : st.configOpen = true ↔ st = .idle ∨ st = .done := by
  cases st <;> simp [RcvState.configOpen]

theorem execRdreg_engineMoves {r : Byte} {s t : State} (h : execRdreg r s = .next t) : EngineMoves s t := by
  obtain rfl := Host.Outcome.next.inj h
  cases Reg.ofNumber r with
  | none => exact .of_frame rfl (.inr (.inr ⟨.badRegister, rfl⟩)) rfl rfl rfl
  | some x => exact .of_frame rfl (.inl rfl) rfl rfl rfl

/-- A register write that passed its checks (R103). -/
theorem writeReg_engineMoves {s : State} {x : Reg} {v : Word} (hs : s.snd.ConfigInv s.params)
    (hw : writeWindow s x = true) (hl : writeLegal s x v = true) : EngineMoves s (writeReg s x v) := by
  obtain ⟨hwsize, hrto, hmaxpay⟩ := hs
  cases x with
  | err => exact .of_frame rfl (.inr (.inl rfl)) rfl rfl rfl
  | wsize =>
    have hv := of_decide_eq_true hl
    exact .of_snd rfl rfl rfl rfl (.configure v _ _ ((SndState.configOpen_iff _).1 hw) ⟨hv, hrto, hmaxpay⟩)
  | rto =>
    have hv : 1 ≤ v.toNat :=
      Nat.one_le_iff_ne_zero.2 fun h => of_decide_eq_true hl (BitVec.eq_of_toNat_eq h)
    exact .of_snd rfl rfl rfl rfl (.configure _ v _ ((SndState.configOpen_iff _).1 hw) ⟨hwsize, hv, hmaxpay⟩)
  | maxpay =>
    have hv := of_decide_eq_true hl
    exact .of_snd rfl rfl rfl rfl (.configure _ _ v ((SndState.configOpen_iff _).1 hw) ⟨hwsize, hrto, hv⟩)
  | twdur =>
    exact .of_rcv rfl rfl rfl (.configure v ((RcvState.configOpen_iff _).1 hw) (of_decide_eq_true hl))
      (List.append_nil _).symm
  | ckacc => exact .of_frame rfl (.inl rfl) rfl rfl rfl
  | _ => exact .refl s

theorem execWrreg_engineMoves {r : Byte} {v : Word} {s t : State} (hs : s.Inv) (h : execWrreg r v s = .next t) :
    EngineMoves s t := by
  obtain rfl := Host.Outcome.next.inj h
  cases Reg.ofNumber r with
  | none => exact .refuse _ s
  | some x =>
    dsimp only
    split_ifs with hro hw hl
    · exact .refuse _ s
    · exact .refuse _ s
    · exact .refuse _ s
    · exact writeReg_engineMoves hs.config (by simpa using hw) (by simpa using hl)

theorem execCkGen_engineMoves {d : Bytes} {s t : State} (h : execCkGen d s = .next t) : EngineMoves s t := by
  obtain rfl := Host.Outcome.next.inj h
  split_ifs
  · exact .refuse _ s
  · exact .refuse _ s
  · exact .of_frame rfl (.inl rfl) rfl rfl rfl

/-! #### Sender commands -/

theorem execSndSrc_engineMoves {d : Bytes} {s t : State} (h : execSndSrc d s = .next t) : EngineMoves s t := by
  obtain rfl := Host.Outcome.next.inj h
  cases hst : s.snd.st with
  | idle | loading =>
    dsimp only
    split_ifs with hcap
    · exact .refuse _ s
    · exact .of_snd rfl rfl rfl rfl (.load d (by simp [hst]) (Nat.not_lt.1 hcap))
  | done =>
    dsimp only
    split_ifs with hcap
    · exact .refuse _ s
    · refine .of_snd rfl rfl rfl rfl (.newSession hst (.load d (.inl rfl) ?_))
      simpa [Sender.cleared] using hcap
  | ready | run | error => exact .refuse _ s

/-- SND_EOF once it is accepted (R143): the session is prepared, or the empty source is fatal. -/
theorem prepareSession_senderMove {s : State} (hst : s.snd.st = .idle ∨ s.snd.st = .loading) :
    SenderMove s.params s.snd (prepareSession s).snd := by
  unfold prepareSession
  split_ifs with hlen
  · exact .emptySource hst hlen
  · exact .prepare hst hlen

theorem prepareSession_frame (s : State) : prepareSession s = { s with snd := (prepareSession s).snd } := by
  unfold prepareSession
  split_ifs <;> rfl

theorem execSndEof_engineMoves {s t : State} (h : execSndEof s = .next t) : EngineMoves s t := by
  obtain rfl := Host.Outcome.next.inj h
  cases hst : s.snd.st with
  | idle | loading =>
    dsimp only
    rw [prepareSession_frame]
    exact .of_snd rfl rfl rfl rfl (prepareSession_senderMove (by simp [hst]))
  | done =>
    dsimp only
    rw [prepareSession_frame]
    exact .of_snd rfl rfl rfl rfl (.newSession hst (prepareSession_senderMove (s := clearSession s) (.inl rfl)))
  | ready | run | error => exact .refuse _ s

/-- A sender whose timer has just been restarted and whose window is full is what `Fill()` makes of it. -/
theorem Sender.filled_self {g : Sender} (hst : g.st = .run) (hn : g.next.toNat = fillLimit g) (ha : g.armed = true)
    (hc : g.stcnt = 0) : g.filled g.base = g := by
  have hnext : BitVec.ofNat 32 (min (g.base.toNat + g.wsize.toNat) g.numpkt.toNat) = g.next := by
    rw [← fillLimit, ← hn, BitVec.ofNat_toNat, BitVec.setWidth_eq]
  rw [Sender.filled, hnext, ← hst, ← ha, ← hc]

/-- `Fill()` (R140) of a session in RUN that has a packet to send or outstanding, the timer of an outstanding one just
restarted. -/
theorem fill_eq_filled {s t : State} (h : fill s = .next t) (hcap : s.snd.srclen.toNat ≤ s.params.srcCap.toNat)
    (hst : s.snd.st = .run) (hbn : s.snd.base.toNat ≤ s.snd.next.toNat) (hnl : s.snd.next.toNat ≤ fillLimit s.snd)
    (hbl : s.snd.base.toNat < fillLimit s.snd)
    (ht : s.snd.base ≠ s.snd.next → s.snd.armed = true ∧ s.snd.stcnt = 0) :
    t = { s with snd := s.snd.filled s.snd.base, stx := t.stx } := by
  rcases hnl.lt_or_eq with hlt | heq
  · rw [fill_sends s hcap hbn hlt] at h
    have ha : (if s.snd.base = s.snd.next then true else s.snd.armed) = true := by
      split_ifs with he
      · rfl
      · exact (ht he).1
    have hc : (if s.snd.base = s.snd.next then 0 else s.snd.stcnt) = 0 := by
      split_ifs with he
      · rfl
      · exact (ht he).2
    rw [ha, hc] at h
    obtain rfl := Host.Outcome.next.inj h
    rw [Sender.filled, ← hst]
    rfl
  · rw [fill_nothing s heq.ge] at h
    obtain ⟨ha, hc⟩ := ht fun he => by rw [he] at hbl; omega
    obtain rfl := Host.Outcome.next.inj h
    rw [Sender.filled_self hst heq ha hc]

theorem execSndStart_engineMoves {s t : State} (hs : s.Inv) (h : execSndStart s = .next t) : EngineMoves s t := by
  unfold execSndStart at h
  split_ifs at h with hst
  · obtain ⟨⟨hw, -⟩, -, hmax, -⟩ := hs.config
    have hnum := (hs.session.prepared (.inl hst)).numpkt_pos hmax
    have hlim : 0 < fillLimit { s.snd with base := 0, next := 0, st := .run } := by
      simpa [fillLimit, hnum] using Nat.lt_of_lt_of_le Nat.one_pos hw
    rw [fill_eq_filled h hs.source.1 rfl le_rfl (Nat.zero_le _) hlim fun hne => absurd rfl hne]
    exact .of_snd rfl rfl rfl rfl (.start hst)
  · obtain rfl := Host.Outcome.next.inj h
    exact .refuse _ s

/-- A new Ack(n) has BASE < n + 1 ≤ NEXT, so that n + 1 does not wrap (R145). -/
theorem newAck_bounds {p : Params} {g : Sender} {d : Bytes} (h : newAck p g d = true) :
    g.base.toNat < (seqField d + 1).toNat ∧ (seqField d + 1).toNat ≤ g.next.toNat := by
  simp only [newAck, Bool.and_eq_true, decide_eq_true_eq] at h
  obtain ⟨-, hlo, hhi⟩ := h
  have hnn : (seqField d).toInt = (seqField d).toNat := by
    rw [BitVec.toInt_eq_toNat_cond] at hlo ⊢
    split_ifs at hlo ⊢ <;> omega
  rw [toNat_add_one_of_lt (m := g.next) (by omega)]
  omega

section advanceBase

variable (b : Word) (g : Sender)

@[simp] theorem advanceBase_st : (advanceBase b g).st = g.st := by unfold advanceBase; split <;> rfl
@[simp] theorem advanceBase_wsize : (advanceBase b g).wsize = g.wsize := by unfold advanceBase; split <;> rfl
@[simp] theorem advanceBase_base : (advanceBase b g).base = b := by unfold advanceBase; split <;> rfl
@[simp] theorem advanceBase_next : (advanceBase b g).next = g.next := by unfold advanceBase; split <;> rfl
@[simp] theorem advanceBase_numpkt : (advanceBase b g).numpkt = g.numpkt := by unfold advanceBase; split <;> rfl
@[simp] theorem advanceBase_srclen : (advanceBase b g).srclen = g.srclen := by unfold advanceBase; split <;> rfl
@[simp] theorem advanceBase_stcnt : (advanceBase b g).stcnt = 0 := by unfold advanceBase; split <;> rfl

theorem advanceBase_armed : (advanceBase b g).armed = if b = g.next then false else g.armed := by
  unfold advanceBase; split <;> rfl

/-- `Fill()` gives the timer its fresh period whether or not the window had drained. -/
@[simp] theorem filled_advanceBase : (advanceBase b g).filled b = g.filled b := by
  unfold advanceBase; split <;> rfl

end advanceBase

theorem acceptAck_engineMoves {b : Word} {s t : State} (hs : s.Inv) (hst : s.snd.st = .run)
    (hlo : s.snd.base.toNat < b.toNat) (hhi : b.toNat ≤ s.snd.next.toNat) (h : acceptAck b s = .next t) :
    EngineMoves s t := by
  obtain ⟨-, hnn, -⟩ := hs.window
  unfold acceptAck at h
  dsimp only at h
  rw [advanceBase_base, advanceBase_numpkt] at h
  split_ifs at h with hlast
  · obtain rfl := Host.Outcome.next.inj h
    have hdrained : s.snd.next = s.snd.numpkt := BitVec.eq_of_toNat_eq (by rw [hlast] at hhi; omega)
    rw [advanceBase, if_pos (hlast.trans hdrained.symm), hlast]
    exact .of_snd rfl rfl rfl rfl (.finish hst hdrained)
  · obtain ⟨⟨hw, -⟩, -⟩ := hs.config
    obtain ⟨-, hfull⟩ := hs.sender.run_window hst
    have hbnum : b.toNat < s.snd.numpkt.toNat :=
      Nat.lt_of_le_of_ne (hhi.trans hnn) fun he => hlast (BitVec.eq_of_toNat_eq he)
    rw [fillLimit] at hfull
    have ht := fill_eq_filled h (by simpa using hs.source.1) (by simpa using hst) (by simpa using hhi)
      (by simp [fillLimit]; omega) (by simp [fillLimit]; omega) fun hne => ⟨?_, advanceBase_stcnt _ _⟩
    · simp only [advanceBase_base, filled_advanceBase] at ht
      rw [ht]
      exact .of_snd rfl rfl rfl rfl (.advance b hst hlo hbnum)
    · rw [advanceBase_armed, if_neg (by simpa using hne)]
      exact hs.sender.run_armed hst

theorem execSndRx_engineMoves {d : Bytes} {s t : State} (hs : s.Inv) (h : execSndRx d s = .next t) :
    EngineMoves s t := by
  unfold execSndRx at h
  split_ifs at h with hc
  · obtain ⟨hst, hack⟩ := hc
    obtain ⟨hlo, hhi⟩ := newAck_bounds hack
    exact acceptAck_engineMoves hs hst hlo hhi h
  · obtain rfl := Host.Outcome.next.inj h
    exact .refl s

theorem execSndTick_engineMoves {s t : State} (hs : s.Inv) (h : execSndTick s = .next t) : EngineMoves s t := by
  unfold execSndTick at h
  split_ifs at h with hc
  · obtain ⟨hst, ha⟩ := hc
    obtain ⟨-, hbelow, -⟩ := hs.timer
    have hrto := hbelow ha
    unfold countTick at h
    dsimp only at h
    split_ifs at h with hc
    · obtain ⟨fs, rfl⟩ := resend_frame _ h
      exact .of_snd rfl rfl rfl rfl (.tick 0 hst ha (Nat.zero_lt_of_lt hrto))
    · obtain rfl := Host.Outcome.next.inj h
      exact .of_snd rfl rfl rfl rfl (.tick _ hst ha (add_one_lt_of_ne hrto hc))
  · obtain rfl := Host.Outcome.next.inj h
    exact .refl s

theorem execSndTxerr_engineMoves {s t : State} (h : execSndTxerr s = .next t) : EngineMoves s t := by
  obtain rfl := Host.Outcome.next.inj h
  split_ifs with hst
  · exact .of_snd rfl rfl rfl rfl (.txError hst)
  · exact .refuse _ s

/-! #### Receiver commands -/

theorem execRcvOpen_engineMoves {d : Bytes} {s t : State} (h : execRcvOpen d s = .next t) : EngineMoves s t := by
  obtain rfl := Host.Outcome.next.inj h
  split_ifs with hlen hst
  · exact .refuse _ s
  · exact .of_rcv rfl rfl rfl (.opened ((RcvState.configOpen_iff _).1 hst)) (List.append_nil _).symm
  · exact .refuse _ s

/-- The accept of a Data or FinalData frame (R174). -/
theorem acceptFrame_engineMoves {d : Bytes} {s : State} (hst : s.rcv.st = .receiving)
    (hd : dataValid s.params d = true) : EngineMoves s (acceptFrame d s) := by
  simp only [dataValid, Bool.and_eq_true, decide_eq_true_eq] at hd
  obtain ⟨-, hkind⟩ := hd
  unfold acceptFrame
  rcases hkind with hk | hk <;> rw [hk]
  · exact .of_rcv rfl rfl rfl (.acceptData (payload d) hst) rfl
  · exact .of_rcv rfl rfl rfl (.acceptFinal (payload d) hst) rfl

theorem sendAck_engineMoves (s : State) : EngineMoves s (sendAck s) := .of_frame rfl (.inl rfl) rfl rfl rfl

theorem execRcvRx_engineMoves {d : Bytes} {s t : State} (h : execRcvRx d s = .next t) : EngineMoves s t := by
  obtain rfl := Host.Outcome.next.inj h
  cases hst : s.rcv.st with
  | receiving =>
    dsimp only
    split_ifs with hv hq
    · exact sendAck_engineMoves s
    · exact sendAck_engineMoves s
    · exact acceptFrame_engineMoves hst (by simpa using hv)
  | finalAckSent => exact sendAck_engineMoves s
  | idle | done | error => exact .refl s

theorem execRcvTick_engineMoves {s t : State} (hs : s.Inv) (h : execRcvTick s = .next t) : EngineMoves s t := by
  obtain rfl := Host.Outcome.next.inj h
  split_ifs with hst
  · unfold countTimeWait
    dsimp only
    split_ifs with hc
    · exact .of_rcv rfl rfl rfl (.close _ hst) rfl
    · have hr := hs.receiver
      rw [Receiver.Inv, hst] at hr
      obtain ⟨-, -, hlt⟩ := hr
      exact .of_rcv rfl rfl rfl (.count _ hst (add_one_lt_of_ne hlt hc)) (List.append_nil _).symm
  · exact .refl s

theorem execRcvTxerr_engineMoves {s t : State} (h : execRcvTxerr s = .next t) : EngineMoves s t := by
  obtain rfl := Host.Outcome.next.inj h
  cases hst : s.rcv.st with
  | receiving | finalAckSent => exact .of_rcv rfl rfl rfl (.txError (by simp [hst])) (List.append_nil _).symm
  | idle | done | error => exact .refuse _ s

/-! #### Every command, and the step -/

theorem exec_engineMoves {i : Instr} {s t : State} (hs : s.Inv) (h : exec i s = .next t) : EngineMoves s t := by
  cases i with
  | nop | sndRxerr | rcvRxerr => exact Host.Outcome.next.inj h ▸ .refl s
  | reset => exact Host.Outcome.next.inj h ▸ .applyReset s
  | rdreg r => exact execRdreg_engineMoves h
  | wrreg r v => exact execWrreg_engineMoves hs h
  | ckClr | ckAdd | ckAddb | ckFold | ckFin | ckVer =>
    exact Host.Outcome.next.inj h ▸ .of_frame rfl (.inl rfl) rfl rfl rfl
  | ckGen d => exact execCkGen_engineMoves h
  | sndSrc d => exact execSndSrc_engineMoves h
  | sndEof => exact execSndEof_engineMoves h
  | sndStart => exact execSndStart_engineMoves hs h
  | sndRx d => exact execSndRx_engineMoves hs h
  | sndTick => exact execSndTick_engineMoves hs h
  | sndTxerr => exact execSndTxerr_engineMoves h
  | sndAbort => exact Host.Outcome.next.inj h ▸ .of_snd rfl rfl rfl rfl .abort
  | rcvOpen d => exact execRcvOpen_engineMoves h
  | rcvRx d => exact execRcvRx_engineMoves h
  | rcvTick => exact execRcvTick_engineMoves hs h
  | rcvTxerr => exact execRcvTxerr_engineMoves h
  | rcvAbort => exact Host.Outcome.next.inj h ▸ .of_rcv rfl rfl rfl .abort (List.append_nil _).symm

/-- Everything a step can do to the two engines, from a state of the invariant. -/
theorem step_engineMoves {s t : State} (hs : s.Inv) (h : step s = .next t) : EngineMoves s t := by
  rcases step_cases h with ⟨-, rfl⟩ | ⟨-, -, rfl⟩ | ⟨-, i, rest, -, hx⟩ | ⟨-, r, rest, -, rfl⟩
  · obtain ⟨hp, he, hsnd, hrcv⟩ := EngineMoves.applyReset s
    exact ⟨hp, he, hsnd, hrcv⟩
  · exact .refl t
  · have hs' : (takeWords rest s).Inv := (State.inv_iff _).2 (s.inv_iff.1 hs)
    obtain ⟨hp, he, hsnd, hrcv⟩ := exec_engineMoves hs' hx
    exact ⟨hp, he, hsnd, hrcv⟩
  · obtain ⟨c, hc | hc⟩ := rejectCommand_cases r (takeWords rest s)
    all_goals exact hc ▸ .of_frame rfl (.inr (.inr ⟨c, rfl⟩)) rfl rfl rfl

end Sys2Proof.Machine

namespace Sys2Proof.Proofs

open Sys2Proof.Machine Sys2Proof.Spec

/-- Settles O51: every step makes one of the moves of `SenderMove` and `ReceiverMove`, and each of them keeps the
engine's part of the invariant. -/
theorem everyStepKeepsTheInvariant : Obligations.EveryStepKeepsTheInvariant :=
  fun _ _ hs h => (step_engineMoves hs h).inv hs

/-- Settles O59, by the moves of the two engines: BASE moves forward with an accepted Ack, EXPECTED with an accepted
frame. -/
theorem sessionProgressIsMonotone : Obligations.SessionProgressIsMonotone := by
  intro s t hs h
  obtain ⟨-, -, hsnd, items, hrcv, hsink⟩ := step_engineMoves hs h
  refine ⟨hsnd.base_le hs.sender, fun hst hidle => (hrcv.expected_cases hst hidle).imp_right ?_⟩
  rintro ⟨he, hrec, pay, rfl⟩
  exact ⟨he, hrec, pay, hsink⟩

end Sys2Proof.Proofs

/-! SUPPORT and PROOFS for the memory family: the frame layout and the packet view (O27, O32), what a command can change
(O54, O55, O60), and the session's data frames over a step (O39). The spec's numbers are tied to the model's codec
first; what one command can change of the units, the streams and SRC is said once, by `UnitMove`. -/

namespace Sys2Proof

/-- The unit of a command by its row of the opcode map, bits 7:6 of OPC (R71, R77). -/
def Opc.unit : Opc → Nat
  | .nop | .reset | .rdreg | .wrreg => 0
  | .ckClr | .ckAdd | .ckAddb | .ckFold | .ckFin | .ckGen | .ckVer => 1
  | .sndSrc | .sndEof | .sndStart | .sndRx | .sndRxerr | .sndTick | .sndTxerr | .sndAbort => 2
  | .rcvOpen | .rcvRx | .rcvRxerr | .rcvTick | .rcvTxerr | .rcvAbort => 3

theorem unitOf_eq_opc_unit (i : Instr) : Spec.unitOf i = i.opc.unit := by
  unfold Spec.unitOf
  cases i.opc <;> rfl

end Sys2Proof

namespace Sys2Proof.Machine

/-! ### The spec's numbers are the codec's fields (R10, R11, R40) -/

theorem num16_eq_be16 (f : Bytes) (i : Nat) : Spec.num16 f i = (be16 f i).toNat := (be16_toNat f i).symm

theorem num32_eq_be32 (f : Bytes) (i : Nat) : Spec.num32 f i = (be32 f i).toNat := (be32_toNat f i).symm

theorem s32_toNat (v : Word) : Spec.s32 v.toNat = v.toInt := by
  rw [Spec.s32, BitVec.toInt_eq_toNat_cond]
  split_ifs <;> omega

theorem lenNum_eq_lenField (f : Bytes) : Spec.lenNum f = lenField f := by
  rw [Spec.lenNum, num32_eq_be32, s32_toNat, lenField]

theorem seqNum_eq_seqField (f : Bytes) : Spec.seqNum f = (seqField f).toInt := by
  rw [Spec.seqNum, num32_eq_be32, s32_toNat, seqField]

theorem kindNum_eq_kindField (f : Bytes) : Spec.kindNum f = (kindField f).toNat := num32_eq_be32 f 4

theorem coverOf_eq_cover (f : Bytes) : Spec.coverOf f = cover f := by
  rw [Spec.coverOf, lenNum_eq_lenField, cover]

theorem payloadOf_eq_payload (f : Bytes) : Spec.payloadOf f = payload f := by
  rw [Spec.payloadOf, lenNum_eq_lenField, payload]

/-! ### The checksum over the exact integers (R104) -/

theorem pad_cons_cons (a b : Byte) (s : Bytes) : Spec.pad (a :: b :: s) = a :: b :: Spec.pad s := by
  have hparity : (a :: b :: s).length % 2 = s.length % 2 := Nat.add_mod_right s.length 2
  rw [Spec.pad, Spec.pad, hparity]
  split_ifs <;> rfl

/-- The exact sum of R104, which walks `Pad(s)` by index, is the sum of the model's words. -/
theorem exactSum_eq_sum_words : ∀ s : Bytes, Spec.exactSum s = ((words s).map BitVec.toNat).sum
  | [] => rfl
  | [a] => by simp [Spec.exactSum, Spec.pad, Spec.num16, words, toNat_append_byte]
  | a :: b :: s => by
    have hlen : (a :: b :: Spec.pad s).length / 2 = (Spec.pad s).length / 2 + 1 := Nat.add_div_right _ Nat.two_pos
    have hhead : Spec.num16 (a :: b :: Spec.pad s) (2 * 0) = (a ++ b : Half).toNat := (toNat_append_byte a b).symm
    have htail (k : Nat) : Spec.num16 (a :: b :: Spec.pad s) (2 * (k + 1)) = Spec.num16 (Spec.pad s) (2 * k) := rfl
    rw [Spec.exactSum, pad_cons_cons, hlen, List.range_succ_eq_map, List.map_cons, List.sum_cons, List.map_map, hhead,
      words, List.map_cons, List.sum_cons, ← exactSum_eq_sum_words s, Spec.exactSum]
    simp only [Function.comp_def, Nat.succ_eq_add_one, htail]

/-- `CkOf(s)` (R104). -/
theorem ckOf_toNat_eq_ckNum (s : Bytes) : (ckOf s).toNat = Spec.ckNum s := by
  rw [ckOf_toNat, fold_toNat, sum32, BitVec.toNat_ofNat, ← exactSum_eq_sum_words]
  rfl

/-- The model's verdict on a frame is `FrameValid` of R105 and R107. -/
theorem frameValid_iff (p : Params) (f : Bytes) : frameValid p f = true ↔ Spec.FrameValid p f := by
  have hck : ckField p f = checksum f ↔ Spec.num16 f (12 + p.n.toNat) = Spec.ckNum (Spec.coverOf f) := by
    rw [coverOf_eq_cover, num16_eq_be16, ← ckOf_toNat_eq_ckNum]
    exact BitVec.toNat_inj.symm
  simp only [frameValid, wellFormedFrame, lenLegal, Bool.and_eq_true, decide_eq_true_eq, and_assoc]
  simp only [hck, ← lenNum_eq_lenField, ← kindNum_eq_kindField, frameBytes, Spec.FrameValid, and_assoc]

/-! ### Writing one byte of a frame -/

theorem getD_set_of_ne {f : Bytes} {i j : Nat} (h : i ≠ j) (x d : Byte) : (f.set i x).getD j d = f.getD j d := by
  simp [List.getD_eq_getElem?_getD, List.getElem?_set_ne h]

theorem num32_set_of_lt {f : Bytes} {i j : Nat} (h : j + 3 < i) (x : Byte) :
    Spec.num32 (f.set i x) j = Spec.num32 f j := by
  simp only [Spec.num32]
  rw [getD_set_of_ne (by omega), getD_set_of_ne (by omega), getD_set_of_ne (by omega), getD_set_of_ne (by omega)]

theorem num16_set_of_gt {f : Bytes} {i j : Nat} (h : i < j) (x : Byte) :
    Spec.num16 (f.set i x) j = Spec.num16 f j := by
  rw [Spec.num16, getD_set_of_ne (by omega), getD_set_of_ne (by omega), Spec.num16]

section uncovered

variable {f : Bytes} {i : Nat} (h12 : 12 ≤ i) (x : Byte)
include h12

theorem lenNum_set_of_le : Spec.lenNum (f.set i x) = Spec.lenNum f := by
  rw [Spec.lenNum, num32_set_of_lt (by omega), Spec.lenNum]

theorem kindNum_set_of_le : Spec.kindNum (f.set i x) = Spec.kindNum f := by
  rw [Spec.kindNum, num32_set_of_lt (by omega), Spec.kindNum]

variable (hi : 12 + (Spec.lenNum f).toNat ≤ i)
include hi

/-- A byte of the payload area beyond LEN is not in the payload (R108). -/
theorem payloadOf_set_of_le : Spec.payloadOf (f.set i x) = Spec.payloadOf f := by
  rw [Spec.payloadOf, lenNum_set_of_le h12, List.take_drop, List.take_set_of_le hi, ← List.take_drop, Spec.payloadOf]

/-- A byte of the payload area beyond LEN is not under the checksum (R104). -/
theorem coverOf_set_of_le : Spec.coverOf (f.set i x) = Spec.coverOf f := by
  have hpay := payloadOf_set_of_le h12 x hi
  rw [Spec.payloadOf, Spec.payloadOf] at hpay
  rw [Spec.coverOf, List.take_set_of_le h12, hpay, Spec.coverOf]

end uncovered

/-! ### The packets of a prepared session (R52, R143) -/

/-- A chunk of the source: `m` bytes from address `a` on, fewer where the source ends. -/
theorem take_drop_sourceBytes (g : Sender) (a m : Nat) :
    ((Spec.sourceBytes g).drop a).take m = g.src.readBytes a (min m (g.srclen.toNat - a)) := by
  apply List.ext_getElem
  · simp [Spec.sourceBytes]
  · intro k _ _
    simp [Spec.sourceBytes, Memory.readBytes]

/-- `payload(i)` is the i-th chunk of MAXPAY source bytes (R52). -/
theorem packetPayload_eq_chunk (g : Sender) (i : Nat) :
    packetPayload g i = ((Spec.sourceBytes g).drop (i * g.maxpay.toNat)).take g.maxpay.toNat :=
  (take_drop_sourceBytes g _ _).symm

/-- Every packet of a prepared session starts inside the source (R143). -/
theorem Sender.Prepared.packetOff_lt {g : Sender} (h : g.Prepared) (hm : 1 ≤ g.maxpay.toNat) {i : Nat}
    (hi : i < g.numpkt.toNat) : packetOff g i < g.srclen.toNat := by
  rw [h.2, packetCount, Nat.lt_div_iff_mul_lt hm] at hi
  rw [packetOff]
  omega

theorem Sender.Prepared.packetLen_pos {g : Sender} (h : g.Prepared) (hm : 1 ≤ g.maxpay.toNat) {i : Nat}
    (hi : i < g.numpkt.toNat) : 1 ≤ packetLen g i := by
  have := h.packetOff_lt hm hi
  rw [packetLen]
  omega

theorem lenField_dataFrame {p : Params} {g : Sender} (hp : p.Legal) (hg : g.ConfigInv p) (i : Nat) :
    lenField (dataFrame p g i) = packetLen g i := by
  obtain ⟨⟨-, hn⟩, -⟩ := hp
  have hlen := packetPayload_length_le hg i
  rw [dataFrame, lenField_encodeFrame _ _ _ _ (by omega), packetPayload_length]

theorem kindField_dataFrame_toNat (p : Params) (g : Sender) (i : Nat) :
    (kindField (dataFrame p g i)).toNat = if i + 1 = g.numpkt.toNat then 1 else 0 := by
  rw [dataFrame, kindField_encodeFrame, packetKind]
  split_ifs <;> rfl

theorem frameValid_dataFrame {p : Params} {g : Sender} (hp : p.Legal) (hg : g.ConfigInv p) (i : Nat) :
    frameValid p (dataFrame p g i) = true :=
  frameValid_encodeFrame p _ _ _ hp (packetPayload_length_le hg i)

/-! ### What one command can change (R51, R56, R60) -/

/-- What a command can make of the source buffer, from any state (R51, R142; the emptied list is log 7). -/
inductive SourceMove (i : Instr) (g g' : Sender) : Prop where
  | keep (h : g'.src = g.src)
  /-- ClearSession and RESET -/
  | clear (h : g'.src = []) (hlen : g'.srclen = 0)
  /-- SND_SRC, which in DONE clears the finished session's source first -/
  | write (m : Memory) (hm : m = g.src ∨ m = []) (a : Nat) (d : Bytes) (hi : i = .sndSrc d)
      (h : g'.src = m.writeBytes a d)

theorem SourceMove.wf {i : Instr} {g g' : Sender} (h : SourceMove i g g') (hg : Memory.wf g.src) :
    Memory.wf g'.src := by
  cases h with
  | keep h => exact h ▸ hg
  | clear h _ => exact h ▸ List.Pairwise.nil
  | write m hm a d _ h =>
    rw [h]
    rcases hm with rfl | rfl
    · exact Memory.writeBytes_wf d _ a hg
    · exact Memory.writeBytes_wf d _ a List.Pairwise.nil

/-- The states a command can answer, by its unit (R60, R71): the checksum unit and the two engines write ERR, their own
registers and their own streams, a global command any register and RSP; a stream is only appended to (R56). -/
inductive UnitMove (i : Instr) (s : State) : State → Prop where
  | global {e : ErrReg} {g : Sender} {r : Receiver} {c : Csu} {rsp : List Word} (hu : i.opc.unit = 0)
      (hsrc : SourceMove i s.snd g) (hrsp : s.rsp <+: rsp) :
      UnitMove i s { s with err := e, snd := g, rcv := r, csu := c, rsp := rsp }
  | csu {e : ErrReg} {c : Csu} (hu : i.opc.unit = 1) : UnitMove i s { s with err := e, csu := c }
  | sender {e : ErrReg} {g : Sender} {stx : List Bytes} (hu : i.opc.unit = 2) (hsrc : SourceMove i s.snd g)
      (hstx : s.stx <+: stx) : UnitMove i s { s with err := e, snd := g, stx := stx }
  | receiver {e : ErrReg} {r : Receiver} {rtx : List Bytes} {sink : List SinkItem} (hu : i.opc.unit = 3)
      (hrtx : s.rtx <+: rtx) (hsink : s.sink <+: sink) :
      UnitMove i s { s with err := e, rcv := r, rtx := rtx, sink := sink }

/-- Every stream of `t` begins with what it held in `s` (R56). -/
def StreamsExtend (s t : State) : Prop := s.stx <+: t.stx ∧ s.rtx <+: t.rtx ∧ s.sink <+: t.sink ∧ s.rsp <+: t.rsp

theorem StreamsExtend.refl (s : State) : StreamsExtend s s :=
  ⟨List.prefix_rfl, List.prefix_rfl, List.prefix_rfl, List.prefix_rfl⟩

namespace UnitMove

variable {i : Instr} {s t : State}

theorem source (h : UnitMove i s t) : SourceMove i s.snd t.snd := by
  cases h with
  | global _ hsrc _ | sender _ hsrc _ => exact hsrc
  | csu | receiver => exact .keep rfl

theorem streams (h : UnitMove i s t) : StreamsExtend s t := by
  cases h with
  | global _ _ hrsp => exact ⟨List.prefix_rfl, List.prefix_rfl, List.prefix_rfl, hrsp⟩
  | csu => exact .refl s
  | sender _ _ hstx => exact ⟨hstx, List.prefix_rfl, List.prefix_rfl, List.prefix_rfl⟩
  | receiver _ hrtx hsink => exact ⟨List.prefix_rfl, hrtx, hsink, List.prefix_rfl⟩

/-- A global command that emits nothing and leaves SRC alone. -/
theorem global_keep {e : ErrReg} {g : Sender} {r : Receiver} {c : Csu} (hu : i.opc.unit = 0)
    (hg : g.src = s.snd.src) : UnitMove i s { s with err := e, snd := g, rcv := r, csu := c } :=
  .global hu (.keep hg) List.prefix_rfl

/-- A sender command that emits nothing. -/
theorem sender_silent {e : ErrReg} {g : Sender} (hu : i.opc.unit = 2) (hsrc : SourceMove i s.snd g) :
    UnitMove i s { s with err := e, snd := g } :=
  .sender hu hsrc List.prefix_rfl

/-- A receiver command that emits nothing. -/
theorem receiver_silent {e : ErrReg} {r : Receiver} (hu : i.opc.unit = 3) :
    UnitMove i s { s with err := e, rcv := r } :=
  .receiver hu List.prefix_rfl List.prefix_rfl

theorem refuse_sender (hu : i.opc.unit = 2) (c : RefuseCause) : UnitMove i s (refuse c s) :=
  .sender_silent hu (.keep rfl)

theorem refuse_receiver (hu : i.opc.unit = 3) (c : RefuseCause) : UnitMove i s (refuse c s) :=
  .receiver_silent hu

theorem sendAck_receiver (hu : i.opc.unit = 3) : UnitMove i s (sendAck s) :=
  .receiver hu (List.prefix_append _ _) List.prefix_rfl

end UnitMove

section commands

variable {s t : State}

/-! #### Global commands and the checksum unit -/

theorem execRdreg_unitMove {r : Byte} (h : execRdreg r s = .next t) : UnitMove (.rdreg r) s t := by
  obtain rfl := Host.Outcome.next.inj h
  cases Reg.ofNumber r with
  | none => exact .global rfl (.keep rfl) (List.prefix_append _ _)
  | some x => exact .global rfl (.keep rfl) (List.prefix_append _ _)

theorem execWrreg_unitMove {r : Byte} {v : Word} (h : execWrreg r v s = .next t) : UnitMove (.wrreg r v) s t := by
  obtain rfl := Host.Outcome.next.inj h
  cases Reg.ofNumber r with
  | none => exact .global_keep rfl rfl
  | some x =>
    dsimp only
    split_ifs
    · exact .global_keep rfl rfl
    · exact .global_keep rfl rfl
    · exact .global_keep rfl rfl
    · cases x <;> exact .global_keep rfl rfl

theorem execCkGen_unitMove {d : Bytes} (h : execCkGen d s = .next t) : UnitMove (.ckGen d) s t := by
  obtain rfl := Host.Outcome.next.inj h
  split_ifs <;> exact .csu rfl

/-! #### Sender commands -/

theorem execSndSrc_unitMove {d : Bytes} (h : execSndSrc d s = .next t) : UnitMove (.sndSrc d) s t := by
  obtain rfl := Host.Outcome.next.inj h
  cases hst : s.snd.st with
  | idle | loading =>
    dsimp only
    split_ifs
    · exact .refuse_sender rfl _
    · exact .sender_silent rfl (.write s.snd.src (.inl rfl) _ d rfl rfl)
  | done =>
    dsimp only
    split_ifs
    · exact .refuse_sender rfl _
    · exact .sender_silent rfl (.write [] (.inr rfl) _ d rfl rfl)
  | ready | run | error => exact .refuse_sender rfl _

theorem prepareSession_src (s : State) : (prepareSession s).snd.src = s.snd.src := by
  unfold prepareSession
  split_ifs <;> rfl

theorem prepareSession_srclen (s : State) : (prepareSession s).snd.srclen = s.snd.srclen := by
  unfold prepareSession
  split_ifs <;> rfl

theorem execSndEof_unitMove (h : execSndEof s = .next t) : UnitMove .sndEof s t := by
  obtain rfl := Host.Outcome.next.inj h
  cases hst : s.snd.st with
  | idle | loading =>
    dsimp only
    rw [prepareSession_frame]
    exact .sender_silent rfl (.keep (prepareSession_src s))
  | done =>
    dsimp only
    rw [prepareSession_frame]
    exact .sender_silent rfl (.clear (prepareSession_src (clearSession s)) (prepareSession_srclen (clearSession s)))
  | ready | run | error => exact .refuse_sender rfl _

/-- `Fill()` after a change of the sender that leaves SRC alone (R140). -/
theorem fill_unitMove {i : Instr} {g : Sender} (hu : i.opc.unit = 2) (h : fill { s with snd := g } = .next t)
    (hg : g.src = s.snd.src) : UnitMove i s t := by
  obtain ⟨fs, n, c, a, rfl⟩ := fill_frame h
  exact .sender hu (.keep hg) (List.prefix_append _ _)

theorem execSndStart_unitMove (h : execSndStart s = .next t) : UnitMove .sndStart s t := by
  unfold execSndStart at h
  split_ifs at h
  · exact fill_unitMove rfl h rfl
  · obtain rfl := Host.Outcome.next.inj h
    exact .refuse_sender rfl _

@[simp] theorem advanceBase_src (b : Word) (g : Sender) : (advanceBase b g).src = g.src := by
  unfold advanceBase; split <;> rfl

theorem execSndRx_unitMove {d : Bytes} (h : execSndRx d s = .next t) : UnitMove (.sndRx d) s t := by
  unfold execSndRx at h
  split_ifs at h
  · unfold acceptAck at h
    dsimp only at h
    split_ifs at h
    · obtain rfl := Host.Outcome.next.inj h
      exact .sender_silent rfl (.keep (advanceBase_src _ _))
    · exact fill_unitMove rfl h (advanceBase_src _ _)
  · obtain rfl := Host.Outcome.next.inj h
    exact .sender_silent rfl (.keep rfl)

theorem execSndTick_unitMove (h : execSndTick s = .next t) : UnitMove .sndTick s t := by
  unfold execSndTick at h
  split_ifs at h
  · unfold countTick at h
    dsimp only at h
    split_ifs at h
    · obtain ⟨fs, rfl⟩ := resend_frame _ h
      exact .sender rfl (.keep rfl) (List.prefix_append _ _)
    · obtain rfl := Host.Outcome.next.inj h
      exact .sender_silent rfl (.keep rfl)
  · obtain rfl := Host.Outcome.next.inj h
    exact .sender_silent rfl (.keep rfl)

theorem execSndTxerr_unitMove (h : execSndTxerr s = .next t) : UnitMove .sndTxerr s t := by
  obtain rfl := Host.Outcome.next.inj h
  split_ifs
  · exact .sender_silent rfl (.keep rfl)
  · exact .refuse_sender rfl _

/-! #### Receiver commands -/

theorem execRcvOpen_unitMove {d : Bytes} (h : execRcvOpen d s = .next t) : UnitMove (.rcvOpen d) s t := by
  obtain rfl := Host.Outcome.next.inj h
  split_ifs
  · exact .refuse_receiver rfl _
  · exact .receiver rfl (List.prefix_append _ _) List.prefix_rfl
  · exact .refuse_receiver rfl _

theorem execRcvRx_unitMove {d : Bytes} (h : execRcvRx d s = .next t) : UnitMove (.rcvRx d) s t := by
  obtain rfl := Host.Outcome.next.inj h
  cases hst : s.rcv.st with
  | receiving =>
    dsimp only
    split_ifs
    · exact .sendAck_receiver rfl
    · exact .sendAck_receiver rfl
    · unfold acceptFrame
      dsimp only
      split_ifs <;> exact .receiver rfl (List.prefix_append _ _) (List.prefix_append _ _)
  | finalAckSent => exact .sendAck_receiver rfl
  | idle | done | error => exact .receiver_silent rfl

theorem execRcvTick_unitMove (h : execRcvTick s = .next t) : UnitMove .rcvTick s t := by
  obtain rfl := Host.Outcome.next.inj h
  split_ifs
  · unfold countTimeWait
    dsimp only
    split_ifs
    · exact .receiver rfl List.prefix_rfl (List.prefix_append _ _)
    · exact .receiver_silent rfl
  · exact .receiver_silent rfl

theorem execRcvTxerr_unitMove (h : execRcvTxerr s = .next t) : UnitMove .rcvTxerr s t := by
  obtain rfl := Host.Outcome.next.inj h
  cases s.rcv.st with
  | receiving | finalAckSent => exact .receiver_silent rfl
  | idle | done | error => exact .refuse_receiver rfl _

/-! #### Every command, and the step -/

/-- Everything a command can change, from any state. -/
theorem exec_unitMove {i : Instr} (h : exec i s = .next t) : UnitMove i s t := by
  cases i with
  | nop => exact Host.Outcome.next.inj h ▸ .global_keep rfl rfl
  | reset => exact Host.Outcome.next.inj h ▸ .global rfl (.clear rfl rfl) List.prefix_rfl
  | rdreg r => exact execRdreg_unitMove h
  | wrreg r v => exact execWrreg_unitMove h
  | ckClr | ckAdd | ckAddb | ckFold | ckFin | ckVer => exact Host.Outcome.next.inj h ▸ .csu rfl
  | ckGen d => exact execCkGen_unitMove h
  | sndSrc d => exact execSndSrc_unitMove h
  | sndEof => exact execSndEof_unitMove h
  | sndStart => exact execSndStart_unitMove h
  | sndRx d => exact execSndRx_unitMove h
  | sndRxerr => exact Host.Outcome.next.inj h ▸ .sender_silent rfl (.keep rfl)
  | sndTick => exact execSndTick_unitMove h
  | sndTxerr => exact execSndTxerr_unitMove h
  | sndAbort => exact Host.Outcome.next.inj h ▸ .sender_silent rfl (.clear rfl rfl)
  | rcvOpen d => exact execRcvOpen_unitMove h
  | rcvRx d => exact execRcvRx_unitMove h
  | rcvRxerr => exact Host.Outcome.next.inj h ▸ .receiver_silent rfl
  | rcvTick => exact execRcvTick_unitMove h
  | rcvTxerr => exact execRcvTxerr_unitMove h
  | rcvAbort => exact Host.Outcome.next.inj h ▸ .receiver_silent rfl

end commands

theorem step_streamsExtend {s t : State} (h : step s = .next t) : StreamsExtend s t := by
  rcases step_cases h with ⟨-, rfl⟩ | ⟨-, -, rfl⟩ | ⟨-, i, rest, -, hx⟩ | ⟨-, r, rest, -, rfl⟩
  · exact .refl s
  · exact .refl t
  · exact (exec_unitMove hx).streams
  · obtain ⟨c, hc | hc⟩ := rejectCommand_cases r (takeWords rest s) <;> rw [hc]
    · exact .refl s
    · exact ⟨List.prefix_rfl, List.prefix_rfl, List.prefix_rfl, List.prefix_append _ _⟩

/-- A step leaves SRC alone, empties it with SRCLEN = 0, or does to it what the command on the port does. -/
theorem step_source {s t : State} (h : step s = .next t) :
    t.snd.src = s.snd.src ∨ (t.snd.src = [] ∧ t.snd.srclen = 0)
      ∨ ∃ i rest, decode s.port = .instr i rest ∧ SourceMove i s.snd t.snd := by
  rcases step_cases h with ⟨-, rfl⟩ | ⟨-, -, rfl⟩ | ⟨-, i, rest, hd, hx⟩ | ⟨-, r, rest, -, rfl⟩
  · exact .inr (.inl ⟨rfl, rfl⟩)
  · exact .inl rfl
  · exact .inr (.inr ⟨i, rest, hd, (exec_unitMove hx).source⟩)
  · obtain ⟨c, hc | hc⟩ := rejectCommand_cases r (takeWords rest s) <;> rw [hc] <;> exact .inl rfl

/-! ### The data frames of a session over a step (R53) -/

/-- A step that does not end the session keeps everything its data frames are made from (R52). -/
theorem SenderMove.keeps_packets {p : Params} {g g' : Sender} (h : SenderMove p g g')
    (hst : g.st = .ready ∨ g.st = .run) (hidle : g'.st ≠ .idle) :
    g'.src = g.src ∧ g'.srclen = g.srclen ∧ g'.maxpay = g.maxpay ∧ g'.numpkt = g.numpkt := by
  cases h with
  | keep | start | advance | finish | tick | txError => exact ⟨rfl, rfl, rfl, rfl⟩
  | reset | abort => exact absurd rfl hidle
  | newSession hst' => simp [hst'] at hst
  | configure _ _ _ hst' | load _ hst' | emptySource hst' | prepare hst' =>
    rcases hst' with hst' | hst' <;> simp [hst'] at hst

end Sys2Proof.Machine

namespace Sys2Proof.Proofs

open Sys2Proof.Machine Sys2Proof.Spec

/-- Settles O27: the byte written lies past the covered bytes and before CK, so every part of `FrameValid` reads as
before. -/
theorem uncoveredBytesAreIgnored : Obligations.UncoveredBytesAreIgnored := by
  rintro p f i x - ⟨hlength, hlen, hkind, hck⟩ hlo hhi
  have h12 : 12 ≤ i := by omega
  have hi : 12 + (lenNum f).toNat ≤ i := by omega
  refine ⟨⟨?_, ?_, ?_, ?_⟩, payloadOf_set_of_le h12 x hi, num32_set_of_lt (by omega) x, kindNum_set_of_le h12 x,
    lenNum_set_of_le h12 x⟩
  · rw [List.length_set, hlength]
  · rw [lenNum_set_of_le h12]
    exact hlen
  · rw [kindNum_set_of_le h12]
    exact hkind
  · rw [num16_set_of_gt hhi, coverOf_set_of_le h12 x hi, hck]

/-- Settles O32: the frame is encoded from the i-th chunk, and i < NUMPKT puts the chunk's first byte inside the
source. -/
theorem dataFramesAreTheSourceChunks : Obligations.DataFramesAreTheSourceChunks := by
  intro s i hs hst hi f len
  have hprep := hs.session.prepared hst
  obtain ⟨-, -, hmax, -⟩ := hs.config
  refine ⟨(frameValid_iff _ _).1 (frameValid_dataFrame hs.params hs.config i), ?_, ?_, ?_,
    hprep.packetLen_pos hmax hi, ?_⟩
  · obtain ⟨-, ⟨-, hcap⟩, -⟩ := hs.params
    obtain ⟨hsrc, hnum, -⟩ := hs.source
    have hsmall : i < 2 ^ 31 := by omega
    rw [seqNum_eq_seqField, seqField_dataFrame, BitVec.toInt_ofNat', Int.bmod_eq_of_le] <;> omega
  · rw [kindNum_eq_kindField, kindField_dataFrame_toNat]
  · rw [lenNum_eq_lenField, lenField_dataFrame hs.params hs.config]
    rfl
  · rw [payloadOf_eq_payload, payload_dataFrame hs.params hs.config, packetPayload_eq_chunk]

/-- Settles O6: the step is the command's meaning on the state whose port has lost the command's words. -/
theorem stepPerformsTheDecodedCommand : Obligations.StepPerformsTheDecodedCommand :=
  fun _ _ _ hr hd => step_instr hr hd

/-- Settles O39: of the sender's moves, only those that end the session change what its data frames are made from. -/
theorem retransmissionsAreByteIdentical : Obligations.RetransmissionsAreByteIdentical := by
  intro s t hs hst h hidle
  obtain ⟨hp, -, hsnd, -⟩ := step_engineMoves hs h
  obtain ⟨hsrc, hlen, hmax, hnum⟩ := hsnd.keeps_packets hst hidle
  refine ⟨hsrc, hnum, fun i _ => ?_⟩
  rw [hp]
  exact dataFrame_congr i hmax hlen hnum hsrc

/-- Settles O54: the unit of a command says which part of the state it can write (`UnitMove`). -/
theorem unitsShareNoState : Obligations.UnitsShareNoState := by
  intro i s t h
  cases exec_unitMove h with
  | global hu _ _ | csu hu | sender hu _ _ | receiver hu _ _ => simp [unitOf_eq_opc_unit, hu]

/-- Settles O55: every command only appends to its own streams. -/
theorem streamsOnlyGrow : Obligations.StreamsOnlyGrow :=
  fun _ _ h => step_streamsExtend h

/-- Settles O60: every way a step changes SRC keeps the canonical form, and only SND_SRC leaves bytes in it. -/
theorem sourceBufferIsWrittenOnlyBySndSrc : Obligations.SourceBufferIsWrittenOnlyBySndSrc := by
  intro s t h
  rcases step_source h with hsrc | ⟨hsrc, hlen⟩ | ⟨i, rest, hd, hm⟩
  · exact ⟨fun hwf => hsrc ▸ hwf, .inl hsrc⟩
  · exact ⟨fun _ => hsrc ▸ List.Pairwise.nil, .inr (.inl hlen)⟩
  · refine ⟨hm.wf, ?_⟩
    cases hm with
    | keep hsrc => exact .inl hsrc
    | clear _ hlen => exact .inr (.inl hlen)
    | write _ _ _ d hi _ => exact .inr (.inr ⟨d, rest, hi ▸ hd⟩)

end Sys2Proof.Proofs

/-! SUPPORT and PROOFS for the encoding family: the round trip between commands and words (O1, O2), the rejected words
(O3, O4) and the steps that refuse them (O8, O9), and words written out (O5). The byte string of a LEN form is named
once (`Instr.dataString`); the settled statements stand at the end. -/

namespace Sys2Proof

open Sys2Proof.Machine

/-! ### From a command to its words and back (R70 to R74) -/

/-- The facts of `Laws.Encoding`, gathered for every command. -/
theorem Laws.Encoding.statement : ∀ i : Instr, Laws.Encoding.Statement i
  | .nop => nop
  | .reset => reset
  | .rdreg r => rdreg r
  | .wrreg r v => wrreg r v
  | .ckClr => ckClr
  | .ckAdd w => ckAdd w
  | .ckAddb d => ckAddb d
  | .ckFold => ckFold
  | .ckFin => ckFin
  | .ckGen d => ckGen d
  | .ckVer d => ckVer d
  | .sndSrc d => sndSrc d
  | .sndEof => sndEof
  | .sndStart => sndStart
  | .sndRx d => sndRx d
  | .sndRxerr => sndRxerr
  | .sndTick => sndTick
  | .sndTxerr => sndTxerr
  | .sndAbort => sndAbort
  | .rcvOpen d => rcvOpen d
  | .rcvRx d => rcvRx d
  | .rcvRxerr => rcvRxerr
  | .rcvTick => rcvTick
  | .rcvTxerr => rcvTxerr
  | .rcvAbort => rcvAbort

theorem decode_encode_append {i : Instr} (hi : i.wellFormed = true) (rest : List Word) :
    decode (encode i ++ rest) = .instr i rest := by
  obtain ⟨hlen, hclear, hinstr⟩ := Laws.Encoding.statement i hi
  have h := decode_accepts i.opc (commandWord i.opc.code i.imm) i.dataPhase rest (opcField_commandWord _ _)
    (by rw [immField_commandWord, hlen]) hclear
  rwa [immField_commandWord, hinstr] at h

/-! ### The byte string of a LEN form (R72, R73) -/

/-- The byte string D that a command of a LEN form carries; none for the other forms. -/
def Instr.dataString : Instr → Option Bytes
  | .ckAddb d | .ckGen d | .ckVer d | .sndSrc d | .sndRx d | .rcvOpen d | .rcvRx d => some d
  | _ => none

theorem Instr.dataString_eq_some_iff (i : Instr) (d : Bytes) :
    i.dataString = some d ↔ i = .ckAddb d ∨ i = .ckGen d ∨ i = .ckVer d ∨ i = .sndSrc d ∨ i = .sndRx d
      ∨ i = .rcvOpen d ∨ i = .rcvRx d := by
  cases i <;> simp [Instr.dataString]

/-- Only a data phase can be too long for the port. -/
theorem Instr.wellFormed_iff (i : Instr) :
    i.wellFormed = true ↔ ∀ d, i.dataString = some d → dataFits d = true := by
  cases i <;> simp [Instr.dataString, Instr.wellFormed]

theorem Instr.imm_of_dataString {i : Instr} {d : Bytes} (h : i.dataString = some d) :
    i.imm = BitVec.ofNat 16 d.length := by
  rw [Instr.dataString_eq_some_iff] at h
  rcases h with rfl | rfl | rfl | rfl | rfl | rfl | rfl <;> rfl

/-! ### The command an opcode and its operands make (R72 to R74) -/

namespace Opc

variable {o : Opc} {imm : Half} {ds : List Word}

@[simp] theorem opc_instr : (o.instr imm ds).opc = o := by cases o <;> rfl

theorem dataString_instr :
    (o.instr imm ds).dataString = if o.form = .len then some (dataBytes imm.toNat ds) else none := by
  cases o <;> rfl

theorem imm_instr_of_form_none (ho : o.form = .none) : (o.instr imm ds).imm = 0 := by
  cases o <;> cases ho <;> rfl

theorem imm_instr_of_form_word (ho : o.form = .word) : (o.instr imm ds).imm = imm := by
  cases o <;> cases ho
  rfl

theorem imm_instr_of_form_reg (ho : o.form = .reg) : (o.instr imm ds).imm = (imm.setWidth 8).setWidth 16 := by
  cases o <;> cases ho <;> rfl

theorem dataWords_of_form_len (ho : o.form = .len) : o.dataWords imm = (imm.toNat + 3) / 4 := by
  rw [dataWords, ho]

/-- The byte count of a LEN form is IMM16. -/
theorem length_dataBytes_of_form_len (ho : o.form = .len) (hd : ds.length = o.dataWords imm) :
    (dataBytes imm.toNat ds).length = imm.toNat :=
  dataBytes_length _ _ (hd.trans (dataWords_of_form_len ho))

theorem wellFormed_instr (hd : ds.length = o.dataWords imm) : (o.instr imm ds).wellFormed = true := by
  rw [Instr.wellFormed_iff, dataString_instr]
  intro d h
  split_ifs at h with ho
  obtain rfl := Option.some.inj h
  have := imm.isLt
  rw [dataFits, decide_eq_true_iff, length_dataBytes_of_form_len ho hd, maxDataBytes]
  omega

/-- With the must-be-zero bits clear, IMM16 holds the operand and nothing else (R72, R80). -/
theorem imm_instr {w : Word} (hw : opcField w = o.code) (hd : ds.length = o.dataWords (immField w))
    (hr : o.reservedClear w = true) : (o.instr (immField w) ds).imm = immField w := by
  obtain ⟨-, hnone, hreg⟩ := (reservedClear_iff o w hw).1 hr
  have himm := immField_toNat w
  cases ho : o.form with
  | none =>
    rw [imm_instr_of_form_none ho]
    exact BitVec.eq_of_toNat_eq (himm.trans (hnone ho)).symm
  | word => exact imm_instr_of_form_word ho
  | reg =>
    have hhigh := hreg ho
    rw [imm_instr_of_form_reg ho]
    apply BitVec.eq_of_toNat_eq
    rw [BitVec.toNat_setWidth, BitVec.toNat_setWidth]
    omega
  | len =>
    have hstr : (o.instr (immField w) ds).dataString = some (dataBytes (immField w).toNat ds) := by
      rw [dataString_instr, if_pos ho]
    rw [Instr.imm_of_dataString hstr, length_dataBytes_of_form_len ho hd, BitVec.ofNat_toNat, BitVec.setWidth_eq]

end Opc

/-- A command word with RSV clear is its opcode and its IMM16 (R71). -/
theorem commandWord_fields {w : Word} (h : w.toNat / 2 ^ 16 % 2 ^ 8 = 0) :
    commandWord (opcField w) (immField w) = w := by
  apply BitVec.eq_of_toNat_eq
  rw [commandWord_toNat, opcField_toNat, immField_toNat]
  omega

/-! ### The rejected words (R79, R80) -/

/-- The 25 OPC values fill four runs, one for each unit, so the illegal ones are the ranges after each run (R77, R79). -/
theorem Opc.ofCode_eq_none_iff (c : Byte) :
    Opc.ofCode c = none ↔ (0x04 ≤ c.toNat ∧ c.toNat ≤ 0x3F) ∨ (0x47 ≤ c.toNat ∧ c.toNat ≤ 0x7F)
      ∨ (0x88 ≤ c.toNat ∧ c.toNat ≤ 0xBF) ∨ 0xC6 ≤ c.toNat := by
  have hc := c.isLt
  simp only [Opc.ofCode, List.find?_eq_none, decide_eq_true_iff, ← BitVec.toNat_inj]
  simp [Opc.all, Opc.code]
  omega

theorem decode_illegalOpcode_iff (w : Word) (rest : List Word) :
    decode (w :: rest) = .rejected .illegalOpcode rest ↔ Opc.ofCode (opcField w) = none := by
  rw [decode]
  cases Opc.ofCode (opcField w) with
  | none => simp
  | some o =>
    by_cases hk : rest.length < o.dataWords (immField w)
    · simp [hk]
    · cases hr : o.reservedClear w <;> simp [hk, hr]

theorem opcField_eq_code {o : Opc} {w : Word} (h : w.toNat / 2 ^ 24 = o.code.toNat) : opcField w = o.code :=
  BitVec.eq_of_toNat_eq ((opcField_toNat w).trans h)

end Sys2Proof

namespace Sys2Proof.Machine

/-- The step of a rejected command refuses it, its words taken off the port. -/
theorem step_rejected {s : State} {r : Reject} {rest : List Word} (hr : s.resetIn = false)
    (hd : decode s.port = .rejected r rest) : step s = .next (rejectCommand r (takeWords rest s)) := by
  simp [step, fetch, hr, hd]

end Sys2Proof.Machine

namespace Sys2Proof.Proofs

open Sys2Proof.Machine Sys2Proof.Spec

/-- Settles O1: the command word's fields select the command's own row, whose operands are read back. -/
theorem decodeOfEncode : Obligations.DecodeOfEncode :=
  fun _ rest hi => decode_encode_append hi rest

/-- Settles O2: the row the decoder selects fixes the command word, and the number of its data words. -/
theorem acceptedWordsAreTheEncoding : Obligations.AcceptedWordsAreTheEncoding := by
  intro ws rest i h
  obtain ⟨o, w, ds, rfl, hw, hd, hr, hi⟩ := decode_instr_inv h
  have hopc : i.opc = o := hi ▸ Opc.opc_instr
  have himm : i.imm = immField w := hi ▸ Opc.imm_instr hw hd hr
  have hwf : i.wellFormed = true := hi ▸ Opc.wellFormed_instr hd
  have hword : commandWord i.opc.code i.imm = w := by
    rw [hopc, himm, ← hw, commandWord_fields ((reservedClear_iff o w hw).1 hr).1]
  have hlen : i.dataPhase.length = ds.length := by
    rw [(Laws.Encoding.statement i hwf).1, hopc, himm, hd]
  refine ⟨hwf, w :: ds, rfl, by simp [encode, hlen], by simp [encode, hword], ?_, ?_⟩
  · rintro r v rfl
    obtain rfl : Opc.wrreg = o := hopc
    obtain ⟨x, rfl⟩ := List.length_eq_one_iff.1 hd
    obtain ⟨-, rfl⟩ := Instr.wrreg.inj hi
    rw [encode, hword]
    rfl
  · intro d hform
    have hstr := (Instr.dataString_eq_some_iff i d).2 hform
    rw [hi, Opc.dataString_instr] at hstr
    split_ifs at hstr with ho
    obtain rfl := Option.some.inj hstr
    rw [Opc.length_dataBytes_of_form_len ho hd]
    rfl

/-- Settles O3: the words rejected for their opcode are those whose OPC no row has. -/
theorem illegalOpcodesAreRejected : Obligations.IllegalOpcodesAreRejected := by
  intro w rest
  rw [decode_illegalOpcode_iff, Opc.ofCode_eq_none_iff, opcField_toNat]

/-- Settles O4: the three conditions are those under which the row's mask and match disagree. -/
theorem reservedFieldsAreRejected : Obligations.ReservedFieldsAreRejected := by
  intro o w ds rest hopc hd hset
  have hw := opcField_eq_code hopc
  refine decode_rejects o w ds rest hw hd (Bool.eq_false_iff.2 fun hclear => ?_)
  obtain ⟨hrsv, hnone, hreg⟩ := (reservedClear_iff o w hw).1 hclear
  rcases hset with h | ⟨ho, h⟩ | ⟨ho, h⟩
  · exact h hrsv
  · exact h (hnone ho)
  · exact h (hreg ho)

/-- Settles O8: the decoder rejects the word alone (O3), and the step records the cause. -/
theorem illegalOpcodeStepSetsErrOnly : Obligations.IllegalOpcodeStepSetsErrOnly := by
  intro s w rest hr hport hopc
  have hd : decode s.port = .rejected .illegalOpcode rest := hport ▸ (illegalOpcodesAreRejected w rest).2 hopc
  exact step_rejected hr hd

/-- Settles O9: the decoder rejects the command and its data phase (O4), and the step records the cause. -/
theorem reservedFieldStepSetsErrOnly : Obligations.ReservedFieldStepSetsErrOnly := by
  intro s o w ds rest hr hport hopc hlen hset
  have hd : decode s.port = .rejected (.reservedField o) rest :=
    hport ▸ reservedFieldsAreRejected o w ds rest hopc hlen hset
  rw [step_rejected hr hd, rejectCommand]
  by_cases ho : o = .rdreg
  · rw [if_pos ho, if_pos ho]
    rfl
  · rw [if_neg ho, if_neg ho]
    rfl

/-- Settles O5, by running the decoder on the nine words. -/
theorem wordsDecodeToTheirCommands : Obligations.WordsDecodeToTheirCommands := by
  unfold Obligations.WordsDecodeToTheirCommands
  decide

end Sys2Proof.Proofs

/-! SUPPORT and PROOFS for the global family: the commands that change nothing (O13), RDREG (O14) and WRREG (O15). The
register map of the statements is tied to the model's once (`registerValue_eq_map`); the settled statements stand at
the end. -/

namespace Sys2Proof.Machine

open Sys2Proof.Spec

/-! ### Registers of several fields as numbers -/

/-- ERR as a number (R19): CMDERR is bit 31, above the eight bits of CAUSE. -/
theorem errWord_eq_ofNat (e : ErrReg) :
    errWord e = BitVec.ofNat 32 ((if e.cmdErr then 2 ^ 31 else 0) + e.cause.toNat) := by
  have hdisjoint : 0x80000000#32 &&& e.cause.setWidth 32 = 0#32 := by
    rw [show 0x80000000#32 = BitVec.twoPow 32 31 from rfl, BitVec.twoPow_and]
    simp
  rw [errWord, BitVec.ofNat_add, BitVec.ofNat_toNat]
  cases e.cmdErr with
  | false => simp
  | true => exact (BitVec.add_eq_or_of_and_eq_zero _ _ hdisjoint).symm

/-- SSTATE as a number (R23, R222). -/
theorem SndState.stateWord_eq_ofNat (st : SndState) :
    stateWord st.code st.causeCode = BitVec.ofNat 32 (sstateNum st) := by
  cases st with
  | error c => cases c <;> rfl
  | _ => rfl

/-- RSTATE as a number (R31, R222). -/
theorem RcvState.stateWord_eq_ofNat (st : RcvState) :
    stateWord st.code st.causeCode = BitVec.ofNat 32 (rstateNum st) := by
  cases st with
  | error c => cases c <;> rfl
  | _ => rfl

/-- CKSTAT as a number (R37). -/
theorem ckstatWord_eq_ofNat (c : Csu) :
    ckstatWord c = BitVec.ofNat 32 ((if c.ok then 1 else 0) + (if c.ovf then 2 else 0)) := by
  cases hok : c.ok <;> cases hovf : c.ovf <;> simp [ckstatWord, hok, hovf]

/-! ### The register map (R54) -/

/-- The statements' map gives a mapped number the value the model reads there. -/
theorem registerValue_number (s : State) (x : Reg) : registerValue s x.number = some (readReg s x) := by
  cases x with
  | err => exact congrArg some (errWord_eq_ofNat _).symm
  | sstate => exact congrArg some (SndState.stateWord_eq_ofNat _).symm
  | rstate => exact congrArg some (RcvState.stateWord_eq_ofNat _).symm
  | lastkind => exact congrArg some (BitVec.ofNat_toNat ..)
  | ckres => exact congrArg some (BitVec.ofNat_toNat ..)
  | ckstat => exact congrArg some (ckstatWord_eq_ofNat _).symm
  | _ => rfl

/-- The 21 register numbers fill four runs, so the unmapped ones are the ranges after each run. -/
theorem Reg.ofNumber_eq_none_iff (r : Byte) :
    Reg.ofNumber r = none ↔ (0x03 ≤ r.toNat ∧ r.toNat ≤ 0x0F) ∨ (0x1A ≤ r.toNat ∧ r.toNat ≤ 0x1F)
      ∨ (0x25 ≤ r.toNat ∧ r.toNat ≤ 0x2F) ∨ 0x33 ≤ r.toNat := by
  simp only [Reg.ofNumber, List.find?_eq_none, decide_eq_true_iff, ← BitVec.toNat_inj]
  simp [Reg.all, Reg.number]
  omega

/-- The statements' map has no value for an unmapped number either. -/
theorem registerValue_eq_none {r : Byte} (h : Reg.ofNumber r = none) (s : State) : registerValue s r = none := by
  rw [Reg.ofNumber_eq_none_iff] at h
  unfold registerValue
  split
  case h_22 => rfl
  all_goals omega

theorem registerValue_eq_map (s : State) (r : Byte) : registerValue s r = (Reg.ofNumber r).map (readReg s) := by
  cases h : Reg.ofNumber r with
  | none => exact registerValue_eq_none h s
  | some x => exact Reg.number_of_ofNumber h ▸ registerValue_number s x

/-! ### RDREG and WRREG -/

/-- RDREG of a mapped number (R102). -/
theorem exec_rdreg_mapped {r : Byte} {x : Reg} (h : Reg.ofNumber r = some x) (s : State) :
    exec (.rdreg r) s = .next (emitRsp (readReg s x) s) := by
  simp [exec, execRdreg, h]

/-- RDREG of an unmapped number (R102). -/
theorem exec_rdreg_unmapped {r : Byte} (h : Reg.ofNumber r = none) (s : State) :
    exec (.rdreg r) s = .next (emitRsp 0 (refuse .badRegister s)) := by
  simp [exec, execRdreg, h]

/-- WRREG when none of the checks of R103 fails. -/
theorem exec_wrreg_writes {s : State} {x : Reg} {v : Word} (hro : x.readOnly = false) (hw : writeWindow s x = true)
    (hl : writeLegal s x v = true) : exec (.wrreg x.number v) s = .next (writeReg s x v) := by
  simp [exec, execWrreg, Reg.ofNumber_number, hro, hw, hl]

end Sys2Proof.Machine

namespace Sys2Proof.Proofs

open Sys2Proof.Machine Sys2Proof.Spec

/-- Settles O14: the number is a register's, whose value is emitted, or unmapped, and then 0 is. -/
theorem rdregAnswersOneWord : Obligations.RdregAnswersOneWord := by
  intro s r
  rw [registerValue_eq_map]
  cases h : Reg.ofNumber r with
  | none => exact exec_rdreg_unmapped h s
  | some x => exact exec_rdreg_mapped h s

/-- Settles O15: each premise is the register's write window and its legal values. -/
theorem wrregWritesTheRegister : Obligations.WrregWritesTheRegister := by
  intro s v
  have hne : v.toNat ≠ 0 → v ≠ 0 := fun h hv => h (hv ▸ rfl)
  have hsnd : sndOpen s → s.snd.st.configOpen = true := (SndState.configOpen_iff _).2
  have hrcv : Spec.rcvOpen s → s.rcv.st.configOpen = true := (RcvState.configOpen_iff _).2
  refine ⟨?err, ?ckacc, fun hopen hlo hhi => ?wsize, fun hopen hv => ?rto, fun hopen hlo hhi => ?maxpay,
    fun hopen hv => ?twdur⟩
  case err => exact exec_wrreg_writes (x := .err) rfl rfl rfl
  case ckacc => exact exec_wrreg_writes (x := .ckacc) rfl rfl rfl
  case wsize => exact exec_wrreg_writes (x := .wsize) rfl (hsnd hopen) (decide_eq_true ⟨hlo, hhi⟩)
  case rto => exact exec_wrreg_writes (x := .rto) rfl (hsnd hopen) (decide_eq_true (hne hv))
  case maxpay => exact exec_wrreg_writes (x := .maxpay) rfl (hsnd hopen) (decide_eq_true ⟨hlo, hhi⟩)
  case twdur => exact exec_wrreg_writes (x := .twdur) rfl (hrcv hopen) (decide_eq_true (hne hv))

/-- Settles O13: the meaning of each of the three is to go on with the state it finds. -/
theorem nopAndReceiveErrorsChangeNothing : Obligations.NopAndReceiveErrorsChangeNothing :=
  fun _ => ⟨rfl, rfl, rfl⟩

end Sys2Proof.Proofs

/-! SUPPORT and PROOFS for the checksum family: the accumulator commands (O17, O18, O20 to O22), the frame commands
(O23, O24), encoded and damaged frames (O25, O26), and the frames a step emits (O56). The fold and the sum are first said
over the spec's numbers; what one byte counts in the sum, and which frames a command emits, is said once each. -/

namespace Sys2Proof.Machine

/-! ### The fold as a number (R104, R106) -/

theorem fold_toNat_eq_foldNum (a : Word) : (fold a).toNat = Spec.foldNum a.toNat := fold_toNat a

theorem foldNum_le (a : Nat) : Spec.foldNum a ≤ 0xFFFF := by
  rw [Spec.foldNum]
  split_ifs <;> omega

/-- One end-around addition does not change what a number folds to. -/
theorem foldNum_endAround (a : Nat) : Spec.foldNum (a % 2 ^ 16 + a / 2 ^ 16) = Spec.foldNum a := by
  rw [Spec.foldNum, Spec.foldNum]
  split_ifs <;> omega

/-- Different numbers less than 0xFFFF apart fold to different values (R106, R111). -/
theorem foldNum_ne_of_near {a b : Nat} (hne : a ≠ b) (hab : a < b + 0xFFFF) (hba : b < a + 0xFFFF) :
    Spec.foldNum a ≠ Spec.foldNum b := by
  rw [Spec.foldNum, Spec.foldNum]
  split_ifs <;> omega

theorem fold_eq_ofNat (a : Word) : fold a = BitVec.ofNat 32 (Spec.foldNum a.toNat) := by
  rw [← fold_toNat_eq_foldNum, BitVec.ofNat_toNat, BitVec.setWidth_eq]

/-- The complement that CK_FIN and CkOf take of a folded value (R104, R124). -/
theorem not_fold_eq_ofNat (a : Word) :
    (~~~ fold a).setWidth 16 = BitVec.ofNat 16 (0xFFFF - Spec.foldNum a.toNat) := by
  have hle := foldNum_le a.toNat
  apply BitVec.eq_of_toNat_eq
  rw [BitVec.toNat_setWidth, BitVec.toNat_not, fold_toNat_eq_foldNum, BitVec.toNat_ofNat]
  omega

/-! ### Adding words into CKACC (R121, R122) -/

theorem word_ofNat_mod (a : Nat) : BitVec.ofNat 32 (a % 2 ^ 32) = BitVec.ofNat 32 a := by
  rw [← BitVec.toNat_ofNat, BitVec.ofNat_toNat, BitVec.setWidth_eq]

/-- A list of words adds its exact sum, and CKOVF is set when the total does not fit: once an addition has carried, the
exact total exceeds 2^32 for good. -/
theorem ckAddWords_eq (ws : List Half) : ∀ c : Csu, ckAddWords c ws = { c with
    acc := BitVec.ofNat 32 (c.acc.toNat + (ws.map BitVec.toNat).sum)
    ovf := c.ovf || decide (2 ^ 32 ≤ c.acc.toNat + (ws.map BitVec.toNat).sum) } := by
  induction ws with
  | nil =>
    intro c
    have hfits : ¬ 2 ^ 32 ≤ c.acc.toNat := Nat.not_le.2 c.acc.isLt
    rw [ckAddWords, List.foldl_nil, List.map_nil, List.sum_nil, Nat.add_zero, decide_eq_false hfits, Bool.or_false,
      BitVec.ofNat_toNat, BitVec.setWidth_eq]
  | cons w ws ih =>
    intro c
    rw [ckAddWords, List.foldl_cons, ← ckAddWords, ih, List.map_cons, List.sum_cons]
    simp only [ckAddWord, BitVec.toNat_ofNat, Csu.mk.injEq, true_and]
    constructor
    · apply BitVec.eq_of_toNat_eq
      simp only [BitVec.toNat_ofNat]
      omega
    · rw [Bool.or_assoc, ← Bool.decide_or]
      congr 2
      rw [eq_iff_iff]
      omega

/-- CK_ADDB on a cleared accumulator leaves Sum (R104) in CKACC. -/
theorem ckAddWords_cleared (c : Csu) (s : Bytes) : ckAddWords { c with acc := 0, ovf := false } (words s)
    = { c with acc := sum32 s, ovf := decide (2 ^ 32 ≤ Spec.exactSum s) } := by
  rw [ckAddWords_eq, exactSum_eq_sum_words, sum32]
  simp

theorem ckOf_eq_ofNat (s : Bytes) : ckOf s = BitVec.ofNat 16 (Spec.ckNum s) := by
  rw [← ckOf_toNat_eq_ckNum, BitVec.ofNat_toNat, BitVec.setWidth_eq]

/-! ### One byte of a summed string (R104, R111) -/

/-- What a byte counts in the sum, by its place in its big-endian word. -/
def byteWeight (i : Nat) : Nat := if i % 2 = 0 then 256 else 1

@[simp] theorem byteWeight_zero : byteWeight 0 = 256 := rfl

@[simp] theorem byteWeight_one : byteWeight 1 = 1 := rfl

@[simp] theorem byteWeight_add_two (i : Nat) : byteWeight (i + 2) = byteWeight i := by
  rw [byteWeight, byteWeight, Nat.add_mod_right]

theorem exactSum_singleton (a : Byte) : Spec.exactSum [a] = a.toNat * 256 := by
  simp [exactSum_eq_sum_words, words, toNat_append_byte]

theorem exactSum_cons_cons (a b : Byte) (s : Bytes) :
    Spec.exactSum (a :: b :: s) = a.toNat * 256 + b.toNat + Spec.exactSum s := by
  rw [exactSum_eq_sum_words, exactSum_eq_sum_words, words, List.map_cons, List.sum_cons, toNat_append_byte]

/-- Writing one byte moves the exact sum by the weighted difference of the two bytes. -/
theorem exactSum_set : ∀ (s : Bytes) (i : Nat) (x : Byte), i < s.length →
    Spec.exactSum (s.set i x) + byteWeight i * (s.getD i 0).toNat = Spec.exactSum s + byteWeight i * x.toNat
  | [a], 0, x, _ => by
    simp only [List.set_cons_zero, List.getD_cons_zero, exactSum_singleton, byteWeight_zero]
    omega
  | a :: b :: s, 0, x, _ => by
    simp only [List.set_cons_zero, List.getD_cons_zero, exactSum_cons_cons, byteWeight_zero]
    omega
  | a :: b :: s, 1, x, _ => by
    simp only [List.set_cons_succ, List.set_cons_zero, List.getD_cons_succ, List.getD_cons_zero, exactSum_cons_cons,
      byteWeight_one]
    omega
  | a :: b :: s, i + 2, x, h => by
    have ih := exactSum_set s i x (by simpa using h)
    simp only [List.set_cons_succ, List.getD_cons_succ, exactSum_cons_cons, byteWeight_add_two]
    omega

theorem exactSum_le : ∀ s : Bytes, Spec.exactSum s ≤ 0xFFFF * s.length
  | [] => Nat.le_refl 0
  | [a] => by
    rw [exactSum_singleton, List.length_singleton]
    omega
  | a :: b :: s => by
    have ih := exactSum_le s
    rw [exactSum_cons_cons, List.length_cons, List.length_cons]
    omega

/-- Writing another byte at one place of a string no longer than the cover of a frame changes its checksum: the sum
moves by at most 255 * 256 < 0xFFFF, and does not wrap. -/
theorem ckNum_set_ne {s : Bytes} {i : Nat} {x : Byte} (hlen : s.length ≤ 0xFFFD) (hi : i < s.length)
    (hx : x ≠ s.getD i 0) : Spec.ckNum (s.set i x) ≠ Spec.ckNum s := by
  have hne : x.toNat ≠ (s.getD i 0).toNat := fun h => hx (BitVec.eq_of_toNat_eq h)
  have hset := exactSum_set s i x hi
  have hbound := exactSum_le s
  have hbound' := exactSum_le (s.set i x)
  rw [List.length_set] at hbound'
  have hfold : Spec.foldNum (Spec.exactSum (s.set i x)) ≠ Spec.foldNum (Spec.exactSum s) := by
    rw [byteWeight] at hset
    apply foldNum_ne_of_near <;> split_ifs at hset <;> omega
  have hle := foldNum_le (Spec.exactSum (s.set i x))
  have hle' := foldNum_le (Spec.exactSum s)
  rw [Spec.ckNum, Spec.ckNum, Nat.mod_eq_of_lt (by omega), Nat.mod_eq_of_lt (by omega)]
  omega

/-! ### Writing one byte of a valid frame (R111) -/

theorem getD_set_self {f : Bytes} {i : Nat} (hi : i < f.length) (x d : Byte) : (f.set i x).getD i d = x := by
  simp [List.getD_eq_getElem?_getD, hi]

/-- LEN is bytes 8 to 11: a byte written elsewhere leaves it. -/
theorem lenNum_set_of_outside {f : Bytes} {i : Nat} (hi : i < 8 ∨ 12 ≤ i) (x : Byte) :
    Spec.lenNum (f.set i x) = Spec.lenNum f := by
  rcases hi with hi | hi
  · rw [Spec.lenNum, Spec.num32, getD_set_of_ne (by omega), getD_set_of_ne (by omega), getD_set_of_ne (by omega),
      getD_set_of_ne (by omega)]
    rfl
  · exact lenNum_set_of_le hi x

/-- The cover is the front of the frame, up to the last covered payload byte. -/
theorem coverOf_eq_take (f : Bytes) : Spec.coverOf f = f.take (12 + (Spec.lenNum f).toNat) := List.take_add.symm

theorem coverOf_set {f : Bytes} {i : Nat} {x : Byte} (h : Spec.lenNum (f.set i x) = Spec.lenNum f) :
    Spec.coverOf (f.set i x) = (Spec.coverOf f).set i x := by
  rw [coverOf_eq_take, coverOf_eq_take, h, List.take_set]

theorem num16_set_ne {f : Bytes} {i j : Nat} {x : Byte} (hi : i < f.length) (hij : i = j ∨ i = j + 1)
    (hx : x ≠ f.getD i 0) : Spec.num16 (f.set i x) j ≠ Spec.num16 f j := by
  have hne : x.toNat ≠ (f.getD i 0).toNat := fun h => hx (BitVec.eq_of_toNat_eq h)
  rw [Spec.num16, Spec.num16]
  rcases hij with rfl | rfl <;> rw [getD_set_self hi, getD_set_of_ne (by omega)] <;> omega

section oneByte

variable {p : Params} {f : Bytes} {i : Nat} {x : Byte} (hv : Spec.FrameValid p f) (hx : x ≠ f.getD i 0)
include hv hx

/-- A covered byte other than those of LEN: the transmitted CK stays, the recomputed one does not. -/
theorem not_frameValid_set_of_covered (hp : p.Legal) (h8 : i < 8 ∨ 12 ≤ i) (hi : i < 12 + (Spec.lenNum f).toNat) :
    ¬ Spec.FrameValid p (f.set i x) := by
  obtain ⟨⟨-, hn⟩, -⟩ := hp
  obtain ⟨hlength, ⟨-, hle⟩, -, hck⟩ := hv
  rintro ⟨-, -, -, hck'⟩
  have hget : (Spec.coverOf f).getD i 0 = f.getD i 0 := by
    simp [coverOf_eq_take, List.getD_eq_getElem?_getD, hi]
  have hcover : (Spec.coverOf f).length = 12 + (Spec.lenNum f).toNat := by
    rw [coverOf_eq_take, List.length_take]
    omega
  rw [num16_set_of_gt (by omega), hck, coverOf_set (lenNum_set_of_outside h8 x)] at hck'
  exact ckNum_set_ne (by omega) (by omega) (hget ▸ hx) hck'.symm

/-- A byte of CK: the recomputed checksum stays, the transmitted CK does not. -/
theorem not_frameValid_set_of_ck (hi : i = 12 + p.n.toNat ∨ i = 12 + p.n.toNat + 1) :
    ¬ Spec.FrameValid p (f.set i x) := by
  obtain ⟨hlength, ⟨-, hle⟩, -, hck⟩ := hv
  rintro ⟨-, -, -, hck'⟩
  rw [coverOf_set_of_le (by omega) x (by omega), ← hck] at hck'
  exact num16_set_ne (by omega) hi hx hck'

end oneByte

/-- Inverting one bit of a byte changes it. -/
theorem xor_bit_ne (x : Byte) {b : Nat} (hb : b < 8) : x ^^^ BitVec.ofNat 8 (2 ^ b) ≠ x := by
  have hbit : ∀ b < 8, BitVec.ofNat 8 (2 ^ b) ≠ 0#8 := by decide
  exact fun h => hbit b hb (by simpa using h)

/-! ### The uncovered bytes of an encoded frame (R44, R109) -/

theorem encodeFrame_getD_of_uncovered (p : Params) (q : Word) (k : Kind) (pay : Bytes) (d : Byte) {j : Nat}
    (hlo : pay.length ≤ j) (hhi : j < p.n.toNat) : (encodeFrame p q k pay).getD (12 + j) d = 0 := by
  have hfront : (header q k pay.length ++ pay).length = 12 + pay.length := by simp
  rw [encodeFrame_eq, List.getD_append _ _ _ _ (by simp; omega), List.getD_append_right _ _ _ _ (by omega),
    List.getD_replicate _ (by omega)]

/-! ### The frames a command emits (R56, R109) -/

/-- A stream grows from `fs` to `fs'` by valid frames only. -/
def EmitsValid (p : Params) (fs fs' : List Bytes) : Prop := ∀ f ∈ fs', f ∈ fs ∨ Spec.FrameValid p f

namespace EmitsValid

variable {p : Params} {fs fs' fs'' : List Bytes}

theorem refl (p : Params) (fs : List Bytes) : EmitsValid p fs fs := fun _ hf => .inl hf

theorem of_eq (h : fs' = fs) : EmitsValid p fs fs' := h ▸ refl p fs

theorem trans (h : EmitsValid p fs fs') (h' : EmitsValid p fs' fs'') : EmitsValid p fs fs'' :=
  fun f hf => (h' f hf).elim (h f) .inr

/-- One more frame, built by EncodeFrame (R109). -/
theorem encoded (hp : p.Legal) (q : Word) (k : Kind) {pay : Bytes} (hlen : pay.length ≤ p.n.toNat) :
    EmitsValid p fs (fs ++ [encodeFrame p q k pay]) := by
  intro f hf
  rcases List.mem_append.1 hf with hf | hf
  · exact .inl hf
  · obtain rfl := List.mem_singleton.1 hf
    exact .inr ((frameValid_iff _ _).1 (frameValid_encodeFrame p q k pay hp hlen))

theorem ack (hp : p.Legal) (q : Word) : EmitsValid p fs (fs ++ [ackFrame p q]) := .encoded hp q .ack (Nat.zero_le _)

end EmitsValid

/-! #### STX -/

theorem sendData_emitsValid {i : Nat} {s t : State} (hp : s.params.Legal) (hg : s.snd.ConfigInv s.params)
    (h : sendData i s = .next t) : EmitsValid s.params s.stx t.stx :=
  sendData_inv h ▸ .encoded hp _ _ (packetPayload_length_le hg i)

theorem fillArm_configInv {p : Params} {s : State} (hg : s.snd.ConfigInv p) : (fillArm s).snd.ConfigInv p := by
  rw [fillArm_snd]
  split_ifs <;> exact hg

theorem advanceBase_configInv {p : Params} {g : Sender} (hg : g.ConfigInv p) (b : Word) :
    (advanceBase b g).ConfigInv p := by
  unfold advanceBase
  split_ifs <;> exact hg

/-- The rounds of Fill emit data frames (R140). -/
theorem fillLoop_emitsValid (k : Nat) : ∀ {s t : State}, s.params.Legal → s.snd.ConfigInv s.params →
    fillLoop k s = .next t → EmitsValid s.params s.stx t.stx := by
  induction k with
  | zero => exact fun _ _ h => Host.Outcome.next.inj h ▸ .refl _ _
  | succ k ih =>
    intro s t hp hg h
    rw [fillLoop, andThen_eq_next] at h
    obtain ⟨u, hu, ht⟩ := h
    rw [← fillArm_params s] at hp
    have hconfig : (fillArm s).snd.ConfigInv (fillArm s).params := fillArm_params s ▸ fillArm_configInv hg
    have hsent := sendData_emitsValid hp hconfig hu
    obtain rfl := sendData_inv hu
    have hrest := ih (s := fillAdvance (emitStx _ (fillArm s))) hp hconfig ht
    rw [← fillArm_params s, ← fillArm_stx s]
    exact hsent.trans hrest

/-- The retransmission emits data frames (R150). -/
theorem resend_emitsValid (k : Nat) : ∀ {i : Nat} {s t : State}, s.params.Legal → s.snd.ConfigInv s.params →
    resend k i s = .next t → EmitsValid s.params s.stx t.stx := by
  induction k with
  | zero => exact fun _ _ h => Host.Outcome.next.inj h ▸ .refl _ _
  | succ k ih =>
    intro i s t hp hg h
    rw [resend, andThen_eq_next] at h
    obtain ⟨u, hu, ht⟩ := h
    have hsent := sendData_emitsValid hp hg hu
    obtain rfl := sendData_inv hu
    exact hsent.trans (ih hp hg ht)

section sender

variable {s t : State}

theorem execSndSrc_stx {d : Bytes} (h : execSndSrc d s = .next t) : t.stx = s.stx := by
  obtain rfl := Host.Outcome.next.inj h
  cases s.snd.st with
  | idle | loading | done =>
    dsimp only
    split_ifs <;> rfl
  | ready | run | error => rfl

theorem prepareSession_stx (s : State) : (prepareSession s).stx = s.stx := by rw [prepareSession_frame]

theorem execSndEof_stx (h : execSndEof s = .next t) : t.stx = s.stx := by
  obtain rfl := Host.Outcome.next.inj h
  cases s.snd.st with
  | idle | loading => exact prepareSession_stx s
  | done => exact prepareSession_stx (clearSession s)
  | ready | run | error => rfl

theorem execSndTxerr_stx (h : execSndTxerr s = .next t) : t.stx = s.stx := by
  obtain rfl := Host.Outcome.next.inj h
  split_ifs <;> rfl

variable (hp : s.params.Legal) (hg : s.snd.ConfigInv s.params)
include hp hg

theorem execSndStart_emitsValid (h : execSndStart s = .next t) : EmitsValid s.params s.stx t.stx := by
  unfold execSndStart at h
  split_ifs at h
  · exact fillLoop_emitsValid (s := { s with snd := { s.snd with base := 0, next := 0, st := .run } }) _ hp hg h
  · exact .of_eq (Host.Outcome.next.inj h ▸ rfl)

theorem execSndRx_emitsValid {d : Bytes} (h : execSndRx d s = .next t) : EmitsValid s.params s.stx t.stx := by
  unfold execSndRx acceptAck at h
  dsimp only at h
  split_ifs at h
  · exact .of_eq (Host.Outcome.next.inj h ▸ rfl)
  · exact fillLoop_emitsValid (s := { s with snd := advanceBase (seqField d + 1) s.snd }) _ hp
      (advanceBase_configInv hg _) h
  · exact .of_eq (Host.Outcome.next.inj h ▸ rfl)

theorem execSndTick_emitsValid (h : execSndTick s = .next t) : EmitsValid s.params s.stx t.stx := by
  unfold execSndTick countTick at h
  dsimp only at h
  split_ifs at h
  · exact resend_emitsValid (s := { s with snd := { s.snd with stcnt := 0 } }) _ hp hg h
  · exact .of_eq (Host.Outcome.next.inj h ▸ rfl)
  · exact .of_eq (Host.Outcome.next.inj h ▸ rfl)

end sender

/-! #### RTX -/

section receiver

variable {s t : State}

theorem execRcvTick_rtx (h : execRcvTick s = .next t) : t.rtx = s.rtx := by
  obtain rfl := Host.Outcome.next.inj h
  unfold countTimeWait
  dsimp only
  split_ifs <;> rfl

theorem execRcvTxerr_rtx (h : execRcvTxerr s = .next t) : t.rtx = s.rtx := by
  obtain rfl := Host.Outcome.next.inj h
  cases s.rcv.st <;> rfl

variable (hp : s.params.Legal)
include hp

theorem execRcvOpen_emitsValid {d : Bytes} (h : execRcvOpen d s = .next t) : EmitsValid s.params s.rtx t.rtx := by
  obtain rfl := Host.Outcome.next.inj h
  split_ifs with hlen
  · exact .refl _ _
  · exact .encoded hp 0 .request (Nat.not_lt.1 hlen)
  · exact .refl _ _

theorem execRcvRx_emitsValid {d : Bytes} (h : execRcvRx d s = .next t) : EmitsValid s.params s.rtx t.rtx := by
  obtain rfl := Host.Outcome.next.inj h
  cases s.rcv.st with
  | receiving =>
    dsimp only
    split_ifs
    · exact .ack hp _
    · exact .ack hp _
    · exact acceptFrame_rtx d s ▸ .ack hp _
  | finalAckSent => exact .ack hp _
  | idle | done | error => exact .refl _ _

end receiver

/-! #### Every command, and the step -/

theorem UnitMove.stx_eq {i : Instr} {s t : State} (h : UnitMove i s t) (hu : i.opc.unit ≠ 2) : t.stx = s.stx := by
  cases h with
  | sender hu' => exact absurd hu' hu
  | global | csu | receiver => rfl

theorem UnitMove.rtx_eq {i : Instr} {s t : State} (h : UnitMove i s t) (hu : i.opc.unit ≠ 3) : t.rtx = s.rtx := by
  cases h with
  | receiver hu' => exact absurd hu' hu
  | global | csu | sender => rfl

/-- Only a sender command appends to STX. -/
theorem exec_stx_emitsValid {i : Instr} {s t : State} (hp : s.params.Legal) (hg : s.snd.ConfigInv s.params)
    (h : exec i s = .next t) : EmitsValid s.params s.stx t.stx := by
  by_cases hu : i.opc.unit = 2
  case neg => exact .of_eq ((exec_unitMove h).stx_eq hu)
  cases i with
  | sndSrc d => exact .of_eq (execSndSrc_stx h)
  | sndEof => exact .of_eq (execSndEof_stx h)
  | sndStart => exact execSndStart_emitsValid hp hg h
  | sndRx d => exact execSndRx_emitsValid hp hg h
  | sndTick => exact execSndTick_emitsValid hp hg h
  | sndTxerr => exact .of_eq (execSndTxerr_stx h)
  | sndRxerr | sndAbort => exact .of_eq (Host.Outcome.next.inj h ▸ rfl)
  | _ => cases hu

/-- Only a receiver command appends to RTX. -/
theorem exec_rtx_emitsValid {i : Instr} {s t : State} (hp : s.params.Legal)
    (h : exec i s = .next t) : EmitsValid s.params s.rtx t.rtx := by
  by_cases hu : i.opc.unit = 3
  case neg => exact .of_eq ((exec_unitMove h).rtx_eq hu)
  cases i with
  | rcvOpen d => exact execRcvOpen_emitsValid hp h
  | rcvRx d => exact execRcvRx_emitsValid hp h
  | rcvTick => exact .of_eq (execRcvTick_rtx h)
  | rcvTxerr => exact .of_eq (execRcvTxerr_rtx h)
  | rcvRxerr | rcvAbort => exact .of_eq (Host.Outcome.next.inj h ▸ rfl)
  | _ => cases hu

end Sys2Proof.Machine

namespace Sys2Proof.Proofs

open Sys2Proof.Machine Sys2Proof.Spec

/-- Settles O18, by induction on the words of the string (`ckAddWords_eq`). -/
theorem ckAddbAddsThePaddedWords : Obligations.CkAddbAddsThePaddedWords := by
  intro s d
  simp only [exec, execCkAddb, ckAddWords_eq, exactSum_eq_sum_words, word_ofNat_mod]

/-- Settles O20: one end-around addition keeps the number the value folds to (`foldNum_endAround`). -/
theorem foldIsEndAroundCarry : Obligations.FoldIsEndAroundCarry := by
  intro a
  refine ⟨?_, fold_lt a, fold_toNat_eq_foldNum a⟩
  split_ifs with h
  · rw [fold, if_pos ((high_eq_zero a).2 (by omega))]
  · rw [fold_eq_ofNat, fold_eq_ofNat, BitVec.toNat_ofNat, Nat.mod_eq_of_lt (by omega), foldNum_endAround]

/-- Settles O21: the folded value and its complement are the closed form of Fold. -/
theorem ckFoldAndCkFinFoldTheAccumulator : Obligations.CkFoldAndCkFinFoldTheAccumulator := by
  intro s
  rw [← fold_eq_ofNat, ← not_fold_eq_ofNat]
  exact ⟨rfl, rfl⟩

/-- Settles O22: CK_ADDB on a cleared accumulator leaves Sum in CKACC, which CK_FIN folds and complements as CkOf
does. -/
theorem ckSumComputesTheChecksum : Obligations.CkSumComputesTheChecksum := by
  intro s d
  refine ⟨{ s with csu := { s.csu with acc := fold (sum32 d), res := ckOf d, ovf := decide (2 ^ 32 ≤ exactSum d) } },
    ?_, rfl, ckOf_toNat_eq_ckNum d, rfl, rfl⟩
  simp only [perform, exec, execCkClr, execCkAddb, execCkFin, andThen_next, ckAddWords_cleared, ckOf]

/-- Settles O23: the premises are the two checks of CK_GEN, and its checksum is CkOf of the cover. -/
theorem ckGenWritesTheChecksum : Obligations.CkGenWritesTheChecksum := by
  intro s d hlength hlo hhi
  have hlegal : lenLegal s.params d = true := decide_eq_true (lenNum_eq_lenField d ▸ ⟨hlo, hhi⟩)
  rw [coverOf_eq_cover, ← ckOf_eq_ofNat]
  simp [exec, execCkGen, frameBytes, hlength, hlegal, checksum]

/-- Settles O24: the verdict is the model's `frameValid`, which is FrameValid of the spec (`frameValid_iff`). -/
theorem ckVerGivesTheVerdict : Obligations.CkVerGivesTheVerdict :=
  fun s d => ⟨frameValid s.params d, rfl, frameValid_iff s.params d⟩

/-- Settles O25: every field is read at the place EncodeFrame put it. -/
theorem encodedFramesAreValid : Obligations.EncodedFramesAreValid := by
  intro p q k pay hp hlen f
  have hvalid := (frameValid_iff p f).1 (frameValid_encodeFrame p q k pay hp hlen)
  obtain ⟨⟨-, hn⟩, -⟩ := hp
  have h31 : pay.length < 2 ^ 31 := by omega
  refine ⟨hvalid, ?seq, ?kind, ?len, ?payload, fun j => encodeFrame_getD_of_uncovered p q k pay 1⟩
  case seq => rw [num32_eq_be32, ← seqField, seqField_encodeFrame]
  case kind => rw [kindNum_eq_kindField, kindField_encodeFrame]
  case len => rw [lenNum_eq_lenField, lenField_encodeFrame p q k pay h31]
  case payload => rw [payloadOf_eq_payload, payload_encodeFrame p q k pay h31]

/-- Settles O26: the byte with the inverted bit differs from the old one, and lies under the checksum or in CK. -/
theorem singleBitErrorsAreDetected : Obligations.SingleBitErrorsAreDetected := by
  intro p f i b hp hv hb hi
  have hx := xor_bit_ne (f.getD i 0) hb
  rcases hi with hi | ⟨h12, hi⟩ | hi | hi
  · exact not_frameValid_set_of_covered hv hx hp (.inl hi) (by omega)
  · exact not_frameValid_set_of_covered hv hx hp (.inr h12) (by omega)
  · exact not_frameValid_set_of_ck hv hx (.inl hi)
  · exact not_frameValid_set_of_ck hv hx (.inr (by omega))

/-- Settles O56: every frame of a command is built by EncodeFrame from a payload of at most N bytes. -/
theorem emittedFramesAreValid : Obligations.EmittedFramesAreValid := by
  intro s t hs h
  have hkeep : EmitsValid s.params s.stx s.stx ∧ EmitsValid s.params s.rtx s.rtx := ⟨.refl _ _, .refl _ _⟩
  rcases step_cases h with ⟨-, rfl⟩ | ⟨-, -, rfl⟩ | ⟨-, i, rest, -, hx⟩ | ⟨-, r, rest, -, rfl⟩
  · exact hkeep
  · exact hkeep
  · exact ⟨exec_stx_emitsValid (s := takeWords rest s) hs.params hs.config hx,
      exec_rtx_emitsValid (s := takeWords rest s) hs.params hx⟩
  · obtain ⟨c, hc | hc⟩ := rejectCommand_cases r (takeWords rest s) <;> rw [hc] <;> exact hkeep

/-- Settles O17: both commands are single updates of the accumulator. -/
theorem ckClrAndCkAddUpdateTheAccumulator : Obligations.CkClrAndCkAddUpdateTheAccumulator := by
  intro s w
  simp only [word_ofNat_mod]
  exact ⟨rfl, rfl⟩

end Sys2Proof.Proofs

/-! SUPPORT and PROOFS for the sender family: loading and preparing the source (O28 to O31), the window and its
acknowledgment (O33 to O35, O40), the retransmission timer (O36, O37) and the ends of a session (O38). One lemma says
what each accepted command makes of the state; the settled statements stand at the end. -/

namespace Sys2Proof.Machine

open Sys2Proof.Spec

variable {s : State}

/-! ### The frames of a window (R52) -/

/-- The frames of a window are made from the parameters and from MAXPAY, SRCLEN, NUMPKT and SRC alone. -/
theorem framesFrom_congr {s t : State} (hp : s.params = t.params) (hmax : s.snd.maxpay = t.snd.maxpay)
    (hlen : s.snd.srclen = t.snd.srclen) (hnum : s.snd.numpkt = t.snd.numpkt) (hsrc : s.snd.src = t.snd.src)
    (a b : Nat) : framesFrom s a b = framesFrom t a b := by
  rw [framesFrom, framesFrom, hp]
  exact List.map_congr_left fun k _ => dataFrame_congr _ hmax hlen hnum hsrc

@[simp] theorem framesFrom_self (s : State) (a : Nat) : framesFrom s a a = [] := by simp [framesFrom]

/-- `Fill()` (R140) up to its limit, in words of the window sent. -/
theorem fill_stx (hcap : s.snd.srclen.toNat ≤ s.params.srcCap.toNat) (hbn : s.snd.base.toNat ≤ s.snd.next.toNat)
    (hnl : s.snd.next.toNat ≤ fillLimit s.snd) :
    ∃ t, fill s = .next t ∧ t.stx = s.stx ++ framesFrom s s.snd.next.toNat (fillLimit s.snd) := by
  rcases hnl.lt_or_eq with hlt | heq
  · exact ⟨_, fill_sends s hcap hbn hlt, rfl⟩
  · exact ⟨s, fill_nothing s heq.ge, by rw [heq, framesFrom_self, List.append_nil]⟩

/-- `Fill()` (R140) of a session in RUN that has a packet to send or outstanding, the timer of an outstanding one just
restarted: the whole next state. -/
theorem fill_fills (hcap : s.snd.srclen.toNat ≤ s.params.srcCap.toNat) (hst : s.snd.st = .run)
    (hbn : s.snd.base.toNat ≤ s.snd.next.toNat) (hnl : s.snd.next.toNat ≤ fillLimit s.snd)
    (hbl : s.snd.base.toNat < fillLimit s.snd)
    (ht : s.snd.base ≠ s.snd.next → s.snd.armed = true ∧ s.snd.stcnt = 0) :
    fill s = .next { s with
      snd := s.snd.filled s.snd.base, stx := s.stx ++ framesFrom s s.snd.next.toNat (fillLimit s.snd) } := by
  obtain ⟨t, hfill, hstx⟩ := fill_stx hcap hbn hnl
  rw [hfill, fill_eq_filled hfill hcap hst hbn hnl hbl ht, hstx]

/-! ### SND_SRC and SND_EOF (R142, R143) -/

theorem exec_sndSrc_appends {d : Bytes} (hst : s.snd.st = .idle ∨ s.snd.st = .loading)
    (hcap : s.snd.srclen.toNat + d.length ≤ s.params.srcCap.toNat) :
    exec (.sndSrc d) s = .next (loadSource s.snd.srclen.toNat d s) := by
  rcases hst with hst | hst <;> simp [exec, execSndSrc, hst, hcap]

theorem exec_sndSrc_restarts {d : Bytes} (hst : s.snd.st = .done) (hcap : d.length ≤ s.params.srcCap.toNat) :
    exec (.sndSrc d) s = .next (loadSource 0 d (clearSession s)) := by
  simp [exec, execSndSrc, hst, hcap]

theorem exec_sndEof_prepares (hst : s.snd.st = .idle ∨ s.snd.st = .loading) :
    exec .sndEof s = .next (prepareSession s) := by
  rcases hst with hst | hst <;> simp [exec, execSndEof, hst]

theorem exec_sndEof_restarts (hst : s.snd.st = .done) :
    exec .sndEof s = .next (prepareSession (clearSession s)) := by
  simp [exec, execSndEof, hst]

/-- NUMPKT is the least number of packets that reaches the end of the source: one fewer does not (R143). -/
theorem Sender.Prepared.pred_mul_lt {g : Sender} (h : g.Prepared) (hm : 1 ≤ g.maxpay.toNat) :
    (g.numpkt.toNat - 1) * g.maxpay.toNat < g.srclen.toNat :=
  h.packetOff_lt hm (Nat.sub_one_lt_of_lt (h.numpkt_pos hm))

/-! ### SND_START and SND_RX (R144, R145) -/

theorem exec_sndStart_ready (hs : s.Inv) (hst : s.snd.st = .ready) :
    exec .sndStart s = .next { s with
      snd := s.snd.filled 0, stx := s.stx ++ framesFrom s 0 (min s.snd.wsize.toNat s.snd.numpkt.toNat) } := by
  obtain ⟨⟨hw, -⟩, -, hmax, -⟩ := hs.config
  have hnum := (hs.session.prepared (.inl hst)).numpkt_pos hmax
  have hlimit : fillLimit { s.snd with base := 0, next := 0, st := .run }
      = min s.snd.wsize.toNat s.snd.numpkt.toNat := by simp [fillLimit]
  have hpos : 0 < fillLimit { s.snd with base := 0, next := 0, st := .run } := by omega
  have hfill := fill_fills (s := { s with snd := { s.snd with base := 0, next := 0, st := .run } }) hs.source.1 rfl
    le_rfl (Nat.zero_le _) hpos fun hne => absurd rfl hne
  rw [hlimit] at hfill
  rw [exec, execSndStart, if_pos hst, hfill]
  rfl

/-- The frames SND_RX accepts are the valid Acks of an outstanding packet (R145). -/
theorem newAck_iff (p : Params) (g : Sender) (d : Bytes) :
    newAck p g d = true
      ↔ FrameValid p d ∧ kindNum d = 3 ∧ (g.base.toNat : Int) ≤ seqNum d ∧ seqNum d < g.next.toNat := by
  have hkind : kindField d = Kind.ack.code ↔ kindNum d = 3 := by
    rw [kindNum_eq_kindField]
    exact BitVec.toNat_inj.symm
  simp only [newAck, Bool.and_eq_true, decide_eq_true_eq, frameValid_iff, hkind, seqNum_eq_seqField, and_assoc]

theorem exec_sndRx_newAck {d : Bytes} (hst : s.snd.st = .run) (hack : newAck s.params s.snd d = true) :
    exec (.sndRx d) s = acceptAck (seqField d + 1) s := if_pos ⟨hst, hack⟩

theorem exec_sndRx_ignored {d : Bytes} (h : s.snd.st ≠ .run ∨ newAck s.params s.snd d ≠ true) :
    exec (.sndRx d) s = .next s := if_neg (not_and_or.2 h)

/-- The pattern n + 1 of an Ack whose number is not negative. -/
theorem seqField_add_one {d : Bytes} {n : Nat} (h : seqNum d = n) : seqField d + 1 = BitVec.ofNat 32 (n + 1) := by
  have hseq : seqField d = BitVec.ofNat 32 n := by
    rw [← BitVec.ofInt_toInt (x := seqField d), ← seqNum_eq_seqField, h, BitVec.ofInt_natCast]
  rw [hseq, BitVec.ofNat_add]
  rfl

/-- The accepted Ack whose n + 1 is NUMPKT is Ack(NUMPKT - 1), every packet sent (R153). -/
theorem newAck_last_iff (p : Params) {g : Sender} (d : Bytes) (hlt : g.base.toNat < g.next.toNat)
    (hnn : g.next.toNat ≤ g.numpkt.toNat) :
    newAck p g d = true ∧ seqField d + 1 = g.numpkt
      ↔ FrameValid p d ∧ kindNum d = 3 ∧ seqNum d = g.numpkt.toNat - 1 ∧ g.next = g.numpkt := by
  rw [newAck_iff]
  constructor
  · rintro ⟨⟨hvalid, hkind, hlo, hhi⟩, hlast⟩
    obtain ⟨n, hn⟩ := Int.eq_ofNat_of_zero_le ((Int.natCast_nonneg _).trans hlo)
    have hnum : g.numpkt.toNat = n + 1 := by
      rw [← hlast, seqField_add_one hn, BitVec.toNat_ofNat]
      omega
    exact ⟨hvalid, hkind, by omega, BitVec.eq_of_toNat_eq (by omega)⟩
  · rintro ⟨hvalid, hkind, hseq, hnext⟩
    rw [hnext] at hlt ⊢
    have hn : seqNum d = (g.numpkt.toNat - 1 : Nat) := by omega
    have hlast : seqField d + 1 = g.numpkt := by
      rw [seqField_add_one hn, Nat.sub_add_cancel (by omega), BitVec.ofNat_toNat, BitVec.setWidth_eq]
    exact ⟨⟨hvalid, hkind, by omega, by omega⟩, hlast⟩

/-- The Ack of the last packet, every packet sent (R145, R153). -/
theorem acceptAck_last {b : Word} (hb : b = s.snd.numpkt) (hn : s.snd.next = s.snd.numpkt) :
    acceptAck b s = .next { s with snd := { s.snd with st := .done, base := b, armed := false, stcnt := 0 } } := by
  rw [acceptAck, advanceBase, if_pos (hb.trans hn.symm)]
  exact if_pos hb

@[simp] theorem advanceBase_maxpay (b : Word) (g : Sender) : (advanceBase b g).maxpay = g.maxpay := by
  unfold advanceBase; split <;> rfl

/-- Advancing BASE changes no data frame (R52, R145). -/
theorem framesFrom_advanceBase (b : Word) (s : State) :
    framesFrom { s with snd := advanceBase b s.snd } = framesFrom s :=
  funext₂ <| framesFrom_congr (s := { s with snd := advanceBase b s.snd }) rfl (advanceBase_maxpay b s.snd)
    (advanceBase_srclen b s.snd) (advanceBase_numpkt b s.snd) (advanceBase_src b s.snd)

theorem fillLimit_advanceBase (b : Word) (g : Sender) :
    fillLimit (advanceBase b g) = min (b.toNat + g.wsize.toNat) g.numpkt.toNat := by simp [fillLimit]

/-- The timer of a packet still outstanding after the Ack is restarted (R145). -/
theorem advanceBase_restarts {b : Word} {g : Sender} (ha : g.armed = true)
    (hne : (advanceBase b g).base ≠ (advanceBase b g).next) :
    (advanceBase b g).armed = true ∧ (advanceBase b g).stcnt = 0 := by
  rw [advanceBase_base, advanceBase_next] at hne
  exact ⟨by rw [advanceBase_armed, if_neg hne, ha], advanceBase_stcnt b g⟩

/-- An Ack that leaves packets outstanding or unsent: `Fill()` finds the window drained, or its timer restarted. -/
theorem acceptAck_advances {b : Word} (hs : s.Inv) (hst : s.snd.st = .run) (hlo : s.snd.base.toNat < b.toNat)
    (hhi : b.toNat ≤ s.snd.next.toNat) (hb : b ≠ s.snd.numpkt) :
    acceptAck b s = .next { s with
      snd := s.snd.filled b
      stx := s.stx ++ framesFrom s s.snd.next.toNat (min (b.toNat + s.snd.wsize.toNat) s.snd.numpkt.toNat) } := by
  obtain ⟨-, hnn, -⟩ := hs.window
  obtain ⟨⟨hw, -⟩, -⟩ := hs.config
  obtain ⟨-, hfull⟩ := hs.sender.run_window hst
  rw [fillLimit] at hfull
  have hbnum : b.toNat < s.snd.numpkt.toNat :=
    Nat.lt_of_le_of_ne (hhi.trans hnn) fun he => hb (BitVec.eq_of_toNat_eq he)
  have hfill := fill_fills (s := { s with snd := advanceBase b s.snd }) (by simpa using hs.source.1)
    (by simpa using hst) (by simpa using hhi) (by rw [fillLimit_advanceBase, advanceBase_next]; omega)
    (by rw [fillLimit_advanceBase, advanceBase_base]; omega) (advanceBase_restarts (hs.sender.run_armed hst))
  simp only [fillLimit_advanceBase, framesFrom_advanceBase, advanceBase_base, advanceBase_next,
    filled_advanceBase] at hfill
  rw [acceptAck, advanceBase_base, advanceBase_numpkt, if_neg hb, hfill]

/-! ### SND_TICK (R150) -/

theorem exec_sndTick_ignored (hst : s.snd.st ≠ .run) : exec .sndTick s = .next s := if_neg fun h => hst h.1

theorem exec_sndTick_run (hs : s.Inv) (hst : s.snd.st = .run) : exec .sndTick s = countTick s :=
  if_pos ⟨hst, hs.sender.run_armed hst⟩

/-- In RUN the count is below RTO, so the tick that reaches RTO is told by the numbers (R29, R38). -/
theorem stcnt_add_one_eq_rto_iff (hs : s.Inv) (hst : s.snd.st = .run) :
    s.snd.stcnt + 1 = s.snd.rto ↔ s.snd.stcnt.toNat + 1 = s.snd.rto.toNat := by
  obtain ⟨-, hbelow, -⟩ := hs.timer
  rw [← BitVec.toNat_inj, toNat_add_one_of_lt (hbelow (hs.sender.run_armed hst))]

theorem exec_sndTick_counts (hs : s.Inv) (hst : s.snd.st = .run) (hc : s.snd.stcnt.toNat + 1 ≠ s.snd.rto.toNat) :
    exec .sndTick s = .next { s with snd := { s.snd with stcnt := s.snd.stcnt + 1 } } := by
  rw [exec_sndTick_run hs hst, countTick]
  exact if_neg (mt (stcnt_add_one_eq_rto_iff hs hst).1 hc)

/-- The timeout: the count restarts and the window is sent again. -/
theorem exec_sndTick_timeout (hs : s.Inv) (hst : s.snd.st = .run) (hc : s.snd.stcnt.toNat + 1 = s.snd.rto.toNat) :
    exec .sndTick s = .next { s with
      snd := { s.snd with stcnt := 0 }, stx := s.stx ++ framesFrom s s.snd.base.toNat s.snd.next.toNat } := by
  rw [exec_sndTick_run hs hst, countTick, if_pos ((stcnt_add_one_eq_rto_iff hs hst).2 hc)]
  exact resend_sends _ _ { s with snd := { s.snd with stcnt := 0 } } hs.source.1

/-- The state after `k` counted ticks of a timer that was armed or rearmed in `s`. -/
def State.ticked (s : State) (k : Nat) : State := { s with snd := { s.snd with stcnt := BitVec.ofNat 32 k } }

theorem State.ticked_zero (hc : s.snd.stcnt = 0) : s.ticked 0 = s := by
  have h0 : s.snd.stcnt = BitVec.ofNat 32 0 := hc
  rw [State.ticked, ← h0]

theorem State.ticked_stcnt_toNat {k : Nat} (hk : k < s.snd.rto.toNat) : (s.ticked k).snd.stcnt.toNat = k := by
  rw [State.ticked, BitVec.toNat_ofNat]
  exact Nat.mod_eq_of_lt (hk.trans s.snd.rto.isLt)

theorem State.Inv.ticked (hs : s.Inv) (hst : s.snd.st = .run) {k : Nat} (hk : k < s.snd.rto.toNat) :
    (s.ticked k).Inv :=
  have hc : (s.ticked k).snd.stcnt.toNat < s.snd.rto.toNat := (State.ticked_stcnt_toNat hk).trans_lt hk
  (State.inv_iff _).2 ⟨hs.params, hs.err, hs.sender.tick hst hc, hs.receiver⟩

/-- Fewer than RTO ticks after the timer was armed are counted one by one (R150). -/
theorem perform_ticks_below_rto (hs : s.Inv) (hst : s.snd.st = .run) (hc : s.snd.stcnt = 0) {k : Nat}
    (hk : k < s.snd.rto.toNat) : perform (List.replicate k .sndTick) s = .next (s.ticked k) := by
  induction k with
  | zero => rw [State.ticked_zero hc]; rfl
  | succ k ih =>
    have hk' : k < s.snd.rto.toNat := Nat.lt_of_succ_lt hk
    have hbelow : (s.ticked k).snd.stcnt.toNat + 1 ≠ (s.ticked k).snd.rto.toNat := by
      rw [State.ticked_stcnt_toNat hk']
      exact hk.ne
    rw [List.replicate_succ', perform_append, ih hk', andThen_next, perform,
      exec_sndTick_counts (hs.ticked hst hk') hst hbelow, State.ticked, State.ticked, BitVec.ofNat_add]
    rfl

/-! ### What leads from RUN to DONE (R153) -/

theorem writeReg_snd_st (x : Reg) (v : Word) (s : State) : (writeReg s x v).snd.st = s.snd.st := by
  cases x <;> rfl

theorem execWrreg_snd_st {r : Byte} {v : Word} {t : State} (h : execWrreg r v s = .next t) :
    t.snd.st = s.snd.st := by
  obtain rfl := Host.Outcome.next.inj h
  cases Reg.ofNumber r with
  | none => rfl
  | some x =>
    dsimp only
    split_ifs
    · rfl
    · rfl
    · rfl
    · exact writeReg_snd_st x v s

theorem execRdreg_snd {r : Byte} {t : State} (h : execRdreg r s = .next t) : t.snd = s.snd := by
  obtain rfl := Host.Outcome.next.inj h
  cases Reg.ofNumber r <;> rfl

/-- `Fill()` leaves the state of the session as it is (R140). -/
theorem fill_snd_st {t : State} (h : fill s = .next t) : t.snd.st = s.snd.st := by
  obtain ⟨fs, n, c, a, rfl⟩ := fill_frame h
  rfl

/-- A tick leaves the state of the session as it is (R150). -/
theorem execSndTick_snd_st {t : State} (h : execSndTick s = .next t) : t.snd.st = s.snd.st := by
  unfold execSndTick countTick at h
  dsimp only at h
  split_ifs at h
  · obtain ⟨fs, rfl⟩ := resend_frame _ h
    rfl
  · exact Host.Outcome.next.inj h ▸ rfl
  · exact Host.Outcome.next.inj h ▸ rfl

/-- SND_RX ends a session in RUN only by the Ack of its last packet (R145). -/
theorem execSndRx_done {d : Bytes} {t : State} (h : execSndRx d s = .next t) (hst : s.snd.st = .run)
    (hdone : t.snd.st = .done) : newAck s.params s.snd d = true ∧ seqField d + 1 = s.snd.numpkt := by
  unfold execSndRx acceptAck at h
  dsimp only at h
  rw [advanceBase_base, advanceBase_numpkt] at h
  split_ifs at h with hack hlast
  · exact ⟨hack.2, hlast⟩
  · have := fill_snd_st h
    simp [hdone, hst] at this
  · obtain rfl := Host.Outcome.next.inj h
    simp [hst] at hdone

/-- The commands of the checksum unit and of the receiver leave the sender alone (R60). -/
theorem exec_snd_of_unit {i : Instr} {t : State} (h : exec i s = .next t) (hu : i.opc.unit = 1 ∨ i.opc.unit = 3) :
    t.snd = s.snd := by
  cases exec_unitMove h with
  | csu | receiver => rfl
  | global hu' | sender hu' => omega

/-- In RUN the commands that load, prepare and start a session are refused (R142 to R144). -/
theorem exec_refused_in_run {i : Instr} (hst : s.snd.st = .run)
    (hi : i = .sndEof ∨ i = .sndStart ∨ ∃ d, i = .sndSrc d) :
    exec i s = .next (refuse .badState s) := by
  rcases hi with rfl | rfl | ⟨d, rfl⟩
  · simp [exec, execSndEof, hst]
  · simp [exec, execSndStart, hst]
  · simp [exec, execSndSrc, hst]

/-- SND_RX is the only command that leads from RUN to DONE (R153). -/
theorem exec_done_of_run {i : Instr} {t : State} (h : exec i s = .next t) (hst : s.snd.st = .run)
    (hdone : t.snd.st = .done) : ∃ d, i = .sndRx d := by
  have hstay : t.snd.st ≠ s.snd.st := by simp [hst, hdone]
  have hunit (hu : i.opc.unit = 1 ∨ i.opc.unit = 3) : False := hstay (congrArg Sender.st (exec_snd_of_unit h hu))
  have hrefused (hi : i = .sndEof ∨ i = .sndStart ∨ ∃ d, i = .sndSrc d) : False := by
    rw [exec_refused_in_run hst hi] at h
    exact hstay (Host.Outcome.next.inj h ▸ rfl)
  cases i with
  | sndRx d => exact ⟨d, rfl⟩
  | nop | sndRxerr => exact absurd (Host.Outcome.next.inj h ▸ rfl) hstay
  | rdreg r => exact absurd (congrArg Sender.st (execRdreg_snd h)) hstay
  | wrreg r v => exact absurd (execWrreg_snd_st h) hstay
  | sndTick => exact absurd (execSndTick_snd_st h) hstay
  | sndEof => exact (hrefused (.inl rfl)).elim
  | sndStart => exact (hrefused (.inr (.inl rfl))).elim
  | sndSrc d => exact (hrefused (.inr (.inr ⟨d, rfl⟩))).elim
  | reset | sndAbort => cases Host.Outcome.next.inj h ▸ hdone
  | sndTxerr =>
    obtain rfl := Host.Outcome.next.inj h
    simp [hst] at hdone
  | ckClr | ckAdd | ckAddb | ckFold | ckFin | ckGen | ckVer => exact (hunit (.inl rfl)).elim
  | rcvOpen | rcvRx | rcvRxerr | rcvTick | rcvTxerr | rcvAbort => exact (hunit (.inr rfl)).elim

/-- A step from RUN to DONE performs an SND_RX: the reset input and a rejected command do not lead to DONE. -/
theorem step_done_of_run {t : State} (h : step s = .next t) (hst : s.snd.st = .run) (hdone : t.snd.st = .done) :
    s.resetIn = false ∧ ∃ d rest, decode s.port = .instr (.sndRx d) rest
      ∧ execSndRx d (takeWords rest s) = .next t := by
  rcases step_cases h with ⟨-, rfl⟩ | ⟨-, -, rfl⟩ | ⟨hr, i, rest, hd, hx⟩ | ⟨-, r, rest, -, rfl⟩
  · cases hdone
  · simp [hst] at hdone
  · obtain ⟨d, rfl⟩ := exec_done_of_run hx hst hdone
    exact ⟨hr, d, rest, hd, hx⟩
  · have hsnd : (rejectCommand r (takeWords rest s)).snd = s.snd := by
      obtain ⟨c, hc | hc⟩ := rejectCommand_cases r (takeWords rest s) <;> rw [hc] <;> rfl
    simp [hsnd, hst] at hdone

end Sys2Proof.Machine

namespace Sys2Proof.Proofs

open Sys2Proof.Machine Sys2Proof.Spec

/-- Settles O28: the bytes are written at SRCLEN, and a read of SRC sees them there and nowhere else. -/
theorem sndSrcAppendsToTheSource : Obligations.SndSrcAppendsToTheSource :=
  fun s d _ hst hcap => ⟨s.snd.src.writeBytes s.snd.srclen.toNat d, exec_sndSrc_appends hst hcap,
    Memory.read_writeBytes d s.snd.src s.snd.srclen.toNat⟩

/-- Settles O29: the finished session is cleared first, and the bytes are written from address 0 on. -/
theorem sndSrcFromDoneStartsANewSession : Obligations.SndSrcFromDoneStartsANewSession := by
  intro s d _ hst hcap
  refine ⟨Memory.writeBytes [] 0 d, ?_, fun a ha => ?_⟩
  · rw [exec_sndSrc_restarts hst hcap, loadSource, Nat.zero_add]
    rfl
  · rw [Memory.read_writeBytes, Nat.zero_add, if_pos ⟨Nat.zero_le a, ha⟩, Nat.sub_zero]

/-- Settles O30: the prepared sender meets the invariant, whose NUMPKT is the ceiling of SRCLEN / MAXPAY. -/
theorem sndEofPreparesThePackets : Obligations.SndEofPreparesThePackets := by
  intro s hs hst hlen
  have hne : s.snd.srclen ≠ 0 := fun h => hlen (by rw [h]; rfl)
  have hprep := (hs.sender.prepare hst hne).session.prepared (.inl rfl)
  obtain ⟨-, -, hmax, -⟩ := hs.config
  refine ⟨BitVec.ofNat 32 (packetCount s.snd), ?_, hprep.pred_mul_lt hmax, hprep.srclen_le hmax,
    hprep.numpkt_pos hmax⟩
  rw [exec_sndEof_prepares hst, prepareSession, if_neg hne]

/-- Settles O31: before READY the session registers are 0 already, and from DONE they are cleared first. -/
theorem sndEofOnEmptySourceIsFatal : Obligations.SndEofOnEmptySourceIsFatal := by
  rintro s hs (⟨hst, hlen⟩ | hst)
  · have hzero : s.snd.srclen = 0 := BitVec.eq_of_toNat_eq hlen
    obtain ⟨hbase, hnext, hnum⟩ := hs.sender.unprepared hst
    refine ⟨s.snd.src, ?_⟩
    rw [exec_sndEof_prepares hst, prepareSession, if_pos hzero, fatalSnd, disarmTimer]
    simp only [hbase, hnext, hnum, hzero]
  · exact ⟨[], exec_sndEof_restarts hst⟩

/-- Settles O33: NEXT is 0, so Fill sends the window from packet 0 on. -/
theorem sndStartSendsTheFirstWindow : Obligations.SndStartSendsTheFirstWindow := by
  intro s hs hst k
  obtain ⟨⟨hw, -⟩, -, hmax, -⟩ := hs.config
  refine ⟨Nat.le_min.2 ⟨hw, (hs.session.prepared (.inl hst)).numpkt_pos hmax⟩, ?_⟩
  rw [exec_sndStart_ready hs hst]
  simp [Sender.filled, k]

/-- Settles O34: the accepted Ack is the last one (`acceptAck_last`), or Fill refills the window
(`acceptAck_advances`). -/
theorem sndRxAcceptsNewAcks : Obligations.SndRxAcceptsNewAcks := by
  intro s d n hs hst hvalid hkind hseq hlo hhi
  obtain ⟨-, hnn, -⟩ := hs.window
  have hack : newAck s.params s.snd d = true := (newAck_iff _ _ _).2 ⟨hvalid, hkind, by omega, by omega⟩
  have hb : (BitVec.ofNat 32 (n + 1)).toNat = n + 1 := by rw [BitVec.toNat_ofNat]; omega
  rw [exec_sndRx_newAck hst hack, seqField_add_one hseq]
  split_ifs with hlast
  · have hnum : BitVec.ofNat 32 (n + 1) = s.snd.numpkt := BitVec.eq_of_toNat_eq (hb.trans hlast)
    exact acceptAck_last hnum (BitVec.eq_of_toNat_eq (by omega))
  · have hnum : BitVec.ofNat 32 (n + 1) ≠ s.snd.numpkt := fun h => hlast (hb ▸ congrArg BitVec.toNat h)
    rw [acceptAck_advances hs hst (by omega) (by omega) hnum, Sender.filled, hb, ← hst]

/-- Settles O35: none of these frames meets the test of SND_RX (`newAck_iff`). -/
theorem sndRxIgnoresEverythingElse : Obligations.SndRxIgnoresEverythingElse := by
  intro s d h
  refine exec_sndRx_ignored (h.imp_right fun hd hack => ?_)
  obtain ⟨hvalid, hkind, hlo, hhi⟩ := (newAck_iff _ _ _).1 hack
  rcases hd with hd | hd | hd | hd
  · exact hd hvalid
  · exact hd hkind
  · omega
  · omega

/-- Settles O36: in RUN the timer is armed, and the tick is counted or is the timeout. -/
theorem sndTickCountsAndRetransmits : Obligations.SndTickCountsAndRetransmits :=
  fun _ => ⟨exec_sndTick_ignored, exec_sndTick_counts, exec_sndTick_timeout⟩

/-- Settles O37, by induction on the ticks before the timeout (`perform_ticks_below_rto`). -/
theorem timeoutFiresOnTheRtoThTick : Obligations.TimeoutFiresOnTheRtoThTick := by
  intro s hs hst hc
  refine ⟨fun k => perform_ticks_below_rto hs hst hc, ?_⟩
  obtain ⟨-, hrto, -⟩ := hs.config
  obtain ⟨k, hk⟩ : ∃ k, s.snd.rto.toNat = k + 1 := ⟨_, (Nat.sub_add_cancel hrto).symm⟩
  have hlt : k < s.snd.rto.toNat := by omega
  have hfires : (s.ticked k).snd.stcnt.toNat + 1 = (s.ticked k).snd.rto.toNat := by
    rw [State.ticked_stcnt_toNat hlt]
    exact hk.symm
  rw [hk, List.replicate_succ', perform_append, perform_ticks_below_rto hs hst hc hlt, andThen_next, perform,
    exec_sndTick_timeout (hs.ticked hst hlt) hst hfires, ← hc]
  rfl

/-- Settles O40: SND_RX of an accepted Ack(NUMPKT - 1) ends the session (`acceptAck_last`), and nothing else does
(`step_done_of_run`). -/
theorem doneExactlyOnTheLastAck : Obligations.DoneExactlyOnTheLastAck := by
  intro s t hs hst h
  obtain ⟨-, hnn, -⟩ := hs.window
  obtain ⟨hlt, -⟩ := hs.sender.run_window hst
  constructor
  · intro hdone
    obtain ⟨hr, d, rest, hd, hx⟩ := step_done_of_run h hst hdone
    have hlast := execSndRx_done (s := takeWords rest s) hx hst hdone
    exact ⟨d, rest, hr, hd, (newAck_last_iff s.params d hlt hnn).1 hlast⟩
  · rintro ⟨d, rest, hr, hd, hframe⟩
    obtain ⟨hack, hlast⟩ := (newAck_last_iff s.params d hlt hnn).2 hframe
    obtain ⟨-, -, -, hnext⟩ := hframe
    rw [step_instr hr hd, exec_sndRx_newAck (s := takeWords rest s) hst hack,
      acceptAck_last (s := takeWords rest s) hlast hnext] at h
    exact Host.Outcome.next.inj h ▸ rfl

/-- Settles O38: both commands are single updates of the sender. -/
theorem sndTxerrAndSndAbortEndTheSession : Obligations.SndTxerrAndSndAbortEndTheSession := by
  refine fun s => ⟨fun hst => ?_, [], rfl⟩
  rw [exec, execSndTxerr, if_pos hst]
  rfl

end Sys2Proof.Proofs

/-! SUPPORT and PROOFS for the receiver family: opening and ending a session (O41, O45), the frames that arrive (O42,
O43, O47, O50), the time-wait (O44, O46), and the closing of SINK (O48). What RCV_RX can do is said
once: it accepts the expected frame, answers, or ignores; the runs are inductions over the commands performed. -/

namespace Sys2Proof.Machine

open Sys2Proof.Spec

/-! ### The fields of a data frame as numbers (R40, R41) -/

theorem seqField_eq_iff (d : Bytes) (q : Word) : seqField d = q ↔ num32 d 0 = q.toNat := by
  rw [num32_eq_be32]
  exact BitVec.toNat_inj.symm

theorem kindField_eq_code_iff (d : Bytes) (k : Kind) : kindField d = k.code ↔ kindNum d = k.code.toNat := by
  rw [kindNum_eq_kindField]
  exact BitVec.toNat_inj.symm

theorem kindField_eq_final_iff (d : Bytes) : kindField d = Kind.finalData.code ↔ kindNum d = 1 :=
  kindField_eq_code_iff d .finalData

/-- The frames the receiver may accept are the valid ones of kind Data or FinalData (R174). -/
theorem dataValid_iff (p : Params) (d : Bytes) : dataValid p d = true ↔ FrameValid p d ∧ kindNum d ≤ 1 := by
  have hkind : (kindNum d = Kind.data.code.toNat ∨ kindNum d = Kind.finalData.code.toNat) ↔ kindNum d ≤ 1 :=
    Nat.le_one_iff_eq_zero_or_eq_one.symm
  simp only [dataValid, Bool.and_eq_true, decide_eq_true_eq, frameValid_iff, kindField_eq_code_iff, hkind]

/-! ### RCV_OPEN, RCV_TXERR and RCV_ABORT (R172, R178, R179) -/

section commands

variable {s : State}

theorem exec_rcvOpen_opens {d : Bytes} (hst : rcvOpen s) (hlen : d.length ≤ s.params.n.toNat) :
    exec (.rcvOpen d) s = .next (openSession d s) := by
  rw [exec, execRcvOpen, if_neg hlen.not_gt, if_pos ((RcvState.configOpen_iff _).2 hst)]

theorem exec_rcvTxerr_fatal (hst : s.rcv.st = .receiving ∨ s.rcv.st = .finalAckSent) :
    exec .rcvTxerr s = .next (fatalRcv .txError s) := by
  rcases hst with hst | hst <;> rw [exec, execRcvTxerr, hst]

/-! ### RCV_RX (R174) -/

/-- What makes a frame the one RECEIVING accepts. -/
def State.Expects (s : State) (d : Bytes) : Prop :=
  FrameValid s.params d ∧ kindNum d ≤ 1 ∧ num32 d 0 = s.rcv.expected.toNat

/-- The whole next state of an accept. -/
theorem acceptFrame_eq {d : Bytes} (hst : s.rcv.st = .receiving) :
    acceptFrame d s = { s with
      rcv := { s.rcv with
        expected := s.rcv.expected + 1, lastkind := BitVec.ofNat 8 (kindNum d)
        st := if kindNum d = 1 then .finalAckSent else .receiving
        twcnt := if kindNum d = 1 then 0 else s.rcv.twcnt }
      sink := s.sink ++ [.bytes (payloadOf d)]
      rtx := s.rtx ++ [encodeFrame s.params s.rcv.expected .ack []] } := by
  have hlast : (kindField d).setWidth 8 = BitVec.ofNat 8 (kindNum d) := by
    rw [kindNum_eq_kindField]
    rfl
  simp only [acceptFrame, kindField_eq_final_iff, hlast, payloadOf_eq_payload]
  split_ifs <;> simp [emitSink, sendAck, emitRtx, ackFrame, hst]

theorem exec_rcvRx_expected {d : Bytes} (hst : s.rcv.st = .receiving) (h : s.Expects d) :
    exec (.rcvRx d) s = .next (acceptFrame d s) := by
  obtain ⟨hvalid, hkind, hseq⟩ := h
  exact exec_rcvRx_accepts hst ((dataValid_iff _ _).2 ⟨hvalid, hkind⟩) ((seqField_eq_iff _ _).2 hseq)

/-- A frame that is not the expected one is answered by the cumulative ACK alone. -/
theorem exec_rcvRx_unexpected {d : Bytes} (hst : s.rcv.st = .receiving) (h : ¬ s.Expects d) :
    exec (.rcvRx d) s = .next (sendAck s) := by
  rw [exec, execRcvRx, hst]
  dsimp only
  split_ifs with hv hq
  · rfl
  · rfl
  · obtain ⟨hvalid, hkind⟩ := (dataValid_iff s.params d).1 (by simpa using hv)
    exact absurd ⟨hvalid, hkind, (seqField_eq_iff _ _).1 (not_not.1 hq)⟩ h

theorem exec_rcvRx_finalAckSent {d : Bytes} (hst : s.rcv.st = .finalAckSent) :
    exec (.rcvRx d) s = .next (sendAck s) := by
  rw [exec, execRcvRx, hst]

theorem exec_rcvRx_ignored {d : Bytes} (hrec : s.rcv.st ≠ .receiving) (hfin : s.rcv.st ≠ .finalAckSent) :
    exec (.rcvRx d) s = .next s := by
  cases hst : s.rcv.st with
  | receiving => exact absurd hst hrec
  | finalAckSent => exact absurd hst hfin
  | idle | done | error => rw [exec, execRcvRx, hst]

/-- Everything RCV_RX can do in a session: accept the expected frame in RECEIVING, or answer with the cumulative ACK. -/
theorem exec_rcvRx_session (d : Bytes) (hst : s.rcv.st = .receiving ∨ s.rcv.st = .finalAckSent) :
    (s.rcv.st = .receiving ∧ s.Expects d ∧ exec (.rcvRx d) s = .next (acceptFrame d s))
      ∨ exec (.rcvRx d) s = .next (sendAck s) := by
  rcases hst with hst | hst
  · by_cases h : s.Expects d
    · exact .inl ⟨hst, h, exec_rcvRx_expected hst h⟩
    · exact .inr (exec_rcvRx_unexpected hst h)
  · exact .inr (exec_rcvRx_finalAckSent hst)

/-- Outside RECEIVING a frame changes neither a register nor SINK. -/
theorem exec_rcvRx_outside (d : Bytes) (hst : s.rcv.st ≠ .receiving) :
    ∃ t, exec (.rcvRx d) s = .next t ∧ t.rcv = s.rcv ∧ t.sink = s.sink := by
  by_cases hfin : s.rcv.st = .finalAckSent
  · exact ⟨sendAck s, exec_rcvRx_finalAckSent hfin, rfl, rfl⟩
  · exact ⟨s, exec_rcvRx_ignored hst hfin, rfl, rfl⟩

/-- The SEQ of the cumulative ACK, EXPECTED - 1 mod 2^32, over the integers (R170). -/
theorem expected_sub_one_eq_ofInt (q : Word) : BitVec.ofInt 32 ((q.toNat : Int) - 1) = q - 1 := by
  apply BitVec.eq_of_toNat_eq
  rw [BitVec.toNat_ofInt, BitVec.toNat_sub]
  have hone : (1 : Word).toNat = 1 := rfl
  rw [hone]
  omega

/-! ### RCV_TICK (R177) -/

theorem State.Inv.twcnt_lt (hs : s.Inv) (hst : s.rcv.st = .finalAckSent) : s.rcv.twcnt.toNat < s.rcv.twdur.toNat := by
  have hr := hs.receiver
  rw [Receiver.Inv, hst] at hr
  obtain ⟨-, -, hlt⟩ := hr
  exact hlt

theorem twcnt_add_one_eq_twdur_iff (hlt : s.rcv.twcnt.toNat < s.rcv.twdur.toNat) :
    s.rcv.twcnt + 1 = s.rcv.twdur ↔ s.rcv.twcnt.toNat + 1 = s.rcv.twdur.toNat := by
  rw [← BitVec.toNat_inj, toNat_add_one_of_lt hlt]

theorem exec_rcvTick_ignored (hst : s.rcv.st ≠ .finalAckSent) : exec .rcvTick s = .next s := by
  rw [exec, execRcvTick, if_neg hst]

theorem exec_rcvTick_counts (hst : s.rcv.st = .finalAckSent) (hlt : s.rcv.twcnt.toNat < s.rcv.twdur.toNat)
    (hc : s.rcv.twcnt.toNat + 1 ≠ s.rcv.twdur.toNat) :
    exec .rcvTick s = .next { s with rcv := { s.rcv with twcnt := s.rcv.twcnt + 1 } } := by
  rw [exec, execRcvTick, if_pos hst, countTimeWait]
  exact congrArg _ (if_neg fun h => hc ((twcnt_add_one_eq_twdur_iff hlt).1 h))

theorem exec_rcvTick_closes (hst : s.rcv.st = .finalAckSent) (hlt : s.rcv.twcnt.toNat < s.rcv.twdur.toNat)
    (hc : s.rcv.twcnt.toNat + 1 = s.rcv.twdur.toNat) :
    exec .rcvTick s = .next { s with
      rcv := { s.rcv with twcnt := s.rcv.twdur, st := .done }, sink := s.sink ++ [.close] } := by
  have hend : s.rcv.twcnt + 1 = s.rcv.twdur := (twcnt_add_one_eq_twdur_iff hlt).2 hc
  rw [exec, execRcvTick, if_pos hst, countTimeWait, hend]
  exact congrArg _ (if_pos rfl)

end commands

/-! ### The time-wait over a sequence of ticks, frames and receive errors (R174, R176, R177) -/

/-- The receiver `t` is `s` after `k` ticks of a time-wait that began in `s`: it waits until the TWDUR-th, and is DONE
with its sink closed from then on. -/
structure WaitedTicks (s t : State) (k : Nat) : Prop where
  rcv : t.rcv = if k < s.rcv.twdur.toNat then { s.rcv with twcnt := BitVec.ofNat 32 k }
    else { s.rcv with twcnt := s.rcv.twdur, st := .done }
  sink : t.sink = if k < s.rcv.twdur.toNat then s.sink else s.sink ++ [.close]

namespace WaitedTicks

variable {s t u : State} {k : Nat}

theorem zero (hdur : 0 < s.rcv.twdur.toNat) (hc : s.rcv.twcnt = 0) : WaitedTicks s s 0 where
  rcv := by
    have h0 : s.rcv.twcnt = BitVec.ofNat 32 0 := hc
    rw [if_pos hdur, ← h0]
  sink := (if_pos hdur).symm

theorem congr (h : WaitedTicks s t k) (hr : u.rcv = t.rcv) (hk : u.sink = t.sink) : WaitedTicks s u k :=
  ⟨hr.trans h.rcv, hk.trans h.sink⟩

/-- Neither in the time-wait nor after it does the receiver accept a frame. -/
theorem st_ne_receiving (h : WaitedTicks s t k) (hst : s.rcv.st = .finalAckSent) : t.rcv.st ≠ .receiving := by
  rw [h.rcv]
  split_ifs <;> simp [hst]

theorem rcvRx (h : WaitedTicks s t k) (hst : s.rcv.st = .finalAckSent) (d : Bytes) :
    ∃ u, exec (.rcvRx d) t = .next u ∧ WaitedTicks s u k := by
  obtain ⟨u, hu, hr, hk⟩ := exec_rcvRx_outside d (h.st_ne_receiving hst)
  exact ⟨u, hu, h.congr hr hk⟩

/-- One more tick: it is counted, it is the TWDUR-th, or it comes after the end. -/
theorem rcvTick (h : WaitedTicks s t k) (hst : s.rcv.st = .finalAckSent) :
    ∃ u, exec .rcvTick t = .next u ∧ WaitedTicks s u (k + 1) := by
  obtain ⟨hr, hk⟩ := h
  by_cases hlt : k < s.rcv.twdur.toNat
  · rw [if_pos hlt] at hr hk
    have hcnt : t.rcv.twcnt.toNat = k := by
      rw [hr, BitVec.toNat_ofNat]
      exact Nat.mod_eq_of_lt (hlt.trans s.rcv.twdur.isLt)
    have hst' : t.rcv.st = .finalAckSent := by rw [hr, hst]
    have hdur : t.rcv.twdur = s.rcv.twdur := by rw [hr]
    have hbelow : t.rcv.twcnt.toNat < t.rcv.twdur.toNat := by rwa [hcnt, hdur]
    by_cases hend : k + 1 = s.rcv.twdur.toNat
    · have hclose := exec_rcvTick_closes hst' hbelow (by rwa [hcnt, hdur])
      exact ⟨_, hclose, by rw [if_neg (by omega), hr], by rw [if_neg (by omega), hk]⟩
    · have hcount := exec_rcvTick_counts hst' hbelow (by rwa [hcnt, hdur])
      refine ⟨_, hcount, ?_, by rw [if_pos (by omega), hk]⟩
      rw [if_pos (by omega), hr, BitVec.ofNat_add]
      rfl
  · rw [if_neg hlt] at hr hk
    refine ⟨t, exec_rcvTick_ignored (by simp [hr]), ?_, ?_⟩
    · rw [if_neg (by omega), hr]
    · rw [if_neg (by omega), hk]

/-- Whatever frames and receive errors come between them, the ticks are what the time-wait counts. -/
theorem perform (is : List Instr) (his : ∀ i ∈ is, i = .rcvTick ∨ i = .rcvRxerr ∨ ∃ d, i = .rcvRx d)
    (h : WaitedTicks s t k) (hst : s.rcv.st = .finalAckSent) :
    ∃ u, Spec.perform is t = .next u ∧ WaitedTicks s u (k + is.count .rcvTick) := by
  induction is generalizing t k with
  | nil => exact ⟨t, rfl, h⟩
  | cons i is ih =>
    have hstep : ∃ u, exec i t = .next u ∧ WaitedTicks s u (k + [i].count .rcvTick) := by
      rcases his i List.mem_cons_self with rfl | rfl | ⟨d, rfl⟩
      · exact h.rcvTick hst
      · exact ⟨t, rfl, h⟩
      · exact h.rcvRx hst d
    obtain ⟨u, hu, hw⟩ := hstep
    obtain ⟨v, hv, hw'⟩ := ih (fun j hj => his j (List.mem_cons_of_mem i hj)) hw
    refine ⟨v, ?_, ?_⟩
    · rw [Spec.perform, hu, andThen_next, hv]
    · rwa [← List.singleton_append, List.count_append, ← Nat.add_assoc]

end WaitedTicks

/-! ### Any sequence of frames (R170, R174, R180) -/

/-- Counting on from EXPECTED + 1 is counting on from EXPECTED by one more (R32). -/
theorem toNat_add_one_add_mod (q : Word) (k : Nat) : ((q + 1).toNat + k) % 2 ^ 32 = (q.toNat + (k + 1)) % 2 ^ 32 := by
  have hone : (1 : Word).toNat = 1 := rfl
  rw [BitVec.toNat_add, Nat.mod_add_mod, hone, Nat.add_assoc, Nat.add_comm 1 k]

/-- `t` is `s` after the frames `ds` arrived and those of `acc` were accepted among them, each with the SEQ that comes
next; every frame of `ds` has one ACK. -/
structure AcceptedFrames (s t : State) (ds acc : List Bytes) : Prop where
  sublist : acc.Sublist ds
  sink : t.sink = s.sink ++ acc.map fun f => .bytes (payloadOf f)
  accepted : ∀ k, k < acc.length → FrameValid s.params (acc.getD k []) ∧ kindNum (acc.getD k []) ≤ 1
    ∧ num32 (acc.getD k []) 0 = (s.rcv.expected.toNat + k) % 2 ^ 32
  expected : t.rcv.expected.toNat = (s.rcv.expected.toNat + acc.length) % 2 ^ 32
  acks : ∃ qs : List Word, qs.length = ds.length
    ∧ t.rtx = s.rtx ++ qs.map fun q => encodeFrame s.params q .ack []

namespace AcceptedFrames

variable {s u t : State} {d : Bytes} {ds acc : List Bytes}

theorem refl (s : State) : AcceptedFrames s s [] [] where
  sublist := .slnil
  sink := (List.append_nil _).symm
  accepted _ hk := absurd hk (Nat.not_lt_zero _)
  expected := (Nat.mod_eq_of_lt s.rcv.expected.isLt).symm
  acks := ⟨[], rfl, (List.append_nil _).symm⟩

/-- The first frame is answered and not accepted. -/
theorem cons_answered (h : AcceptedFrames (sendAck s) t ds acc) : AcceptedFrames s t (d :: ds) acc where
  sublist := h.sublist.cons d
  sink := h.sink
  accepted := h.accepted
  expected := h.expected
  acks := by
    obtain ⟨qs, hlen, hrtx⟩ := h.acks
    exact ⟨(s.rcv.expected - 1) :: qs, by simp [hlen], by simp [hrtx, ackFrame]⟩

/-- The first frame is the expected one. -/
theorem cons_accepted (hd : s.Expects d) (h : AcceptedFrames (acceptFrame d s) t ds acc) :
    AcceptedFrames s t (d :: ds) (d :: acc) where
  sublist := h.sublist.cons_cons d
  sink := by simp [h.sink, payloadOf_eq_payload]
  accepted := by
    obtain ⟨hvalid, hkind, hseq⟩ := hd
    rintro (_ | k) hk
    · exact ⟨hvalid, hkind, hseq.trans (Nat.mod_eq_of_lt s.rcv.expected.isLt).symm⟩
    · obtain ⟨hv, hk', hs⟩ := h.accepted k (Nat.lt_of_succ_lt_succ hk)
      rw [acceptFrame_params] at hv
      rw [acceptFrame_expected, toNat_add_one_add_mod] at hs
      exact ⟨hv, hk', hs⟩
  expected := by rw [h.expected, acceptFrame_expected, toNat_add_one_add_mod, List.length_cons]
  acks := by
    obtain ⟨qs, hlen, hrtx⟩ := h.acks
    exact ⟨s.rcv.expected :: qs, by simp [hlen], by simp [hrtx, ackFrame]⟩

end AcceptedFrames

/-- An accept leaves the receiver in its session. -/
theorem acceptFrame_session {d : Bytes} {s : State} (hst : s.rcv.st = .receiving) :
    (acceptFrame d s).rcv.st = .receiving ∨ (acceptFrame d s).rcv.st = .finalAckSent := by
  rw [acceptFrame_st, hst]
  split_ifs
  · exact .inr rfl
  · exact .inl rfl

/-- Whatever frames arrive in a session, some of them are accepted in order and every one is acknowledged. -/
theorem perform_rcvRx_acceptedFrames (ds : List Bytes) : ∀ s : State,
    (s.rcv.st = .receiving ∨ s.rcv.st = .finalAckSent) →
    ∃ t acc, perform (ds.map .rcvRx) s = .next t ∧ AcceptedFrames s t ds acc := by
  induction ds with
  | nil => exact fun s _ => ⟨s, [], rfl, .refl s⟩
  | cons d ds ih =>
    intro s hst
    rcases exec_rcvRx_session d hst with ⟨hrec, hd, hx⟩ | hx
    · obtain ⟨t, acc, ht, ha⟩ := ih (acceptFrame d s) (acceptFrame_session hrec)
      exact ⟨t, d :: acc, by rw [List.map_cons, perform, hx, andThen_next, ht], ha.cons_accepted hd⟩
    · obtain ⟨t, acc, ht, ha⟩ := ih (sendAck s) hst
      exact ⟨t, acc, by rw [List.map_cons, perform, hx, andThen_next, ht], ha.cons_answered⟩

/-! ### Frames of one session over any channel (R180, R231) -/

/-- The receiver `t` is `r` after exactly the first `k` packets of the sender's session were delivered, however many
ACKs it has sent. -/
structure DeliveredPrefix (g : Sender) (r t : State) (k : Nat) : Prop where
  le : k ≤ g.numpkt.toNat
  params : t.params = r.params
  expected : t.rcv.expected = BitVec.ofNat 32 k
  st : t.rcv.st = if k = g.numpkt.toNat then .finalAckSent else .receiving
  sink : t.sink = r.sink ++ (List.range k).map fun i => .bytes (packetPayload g i)

namespace DeliveredPrefix

variable {g : Sender} {r t : State} {k : Nat}

theorem zero (hn : 0 < g.numpkt.toNat) (hst : r.rcv.st = .receiving) (he : r.rcv.expected = 0) :
    DeliveredPrefix g r r 0 where
  le := hn.le
  params := rfl
  expected := he
  st := by rw [hst, if_neg hn.ne]
  sink := by simp

theorem expected_toNat (h : DeliveredPrefix g r t k) : t.rcv.expected.toNat = k := by
  rw [h.expected, BitVec.toNat_ofNat]
  exact Nat.mod_eq_of_lt (h.le.trans_lt g.numpkt.isLt)

theorem session (h : DeliveredPrefix g r t k) : t.rcv.st = .receiving ∨ t.rcv.st = .finalAckSent := by
  rw [h.st]
  split_ifs
  · exact .inr rfl
  · exact .inl rfl

theorem sendAck (h : DeliveredPrefix g r t k) : DeliveredPrefix g r (sendAck t) k :=
  ⟨h.le, h.params, h.expected, h.st, h.sink⟩

/-- A frame of the session that RECEIVING expects is the frame of the next packet. -/
theorem eq_of_expects (h : DeliveredPrefix g r t k) {i : Nat} (hi : i < g.numpkt.toNat)
    (hexp : t.Expects (dataFrame r.params g i)) : i = k := by
  obtain ⟨-, -, hseq⟩ := hexp
  have hfield := (seqField_eq_iff _ _).2 hseq
  rw [seqField_dataFrame] at hfield
  rw [← h.expected_toNat, ← hfield, BitVec.toNat_ofNat, Nat.mod_eq_of_lt (hi.trans g.numpkt.isLt)]

theorem acceptFrame (h : DeliveredPrefix g r t k) (hp : r.params.Legal) (hg : g.ConfigInv r.params)
    (hst : t.rcv.st = .receiving) : DeliveredPrefix g r (acceptFrame (dataFrame r.params g k) t) (k + 1) := by
  have hlt : k < g.numpkt.toNat := by
    refine lt_of_le_of_ne h.le fun hk => ?_
    have := h.st
    rw [if_pos hk, hst] at this
    cases this
  exact {
    le := hlt
    params := by simp [h.params]
    expected := by simp [h.expected, BitVec.ofNat_add]
    st := by simp only [acceptFrame_st, kindField_dataFrame_eq_final, hst]
    sink := by simp [h.sink, payload_dataFrame hp hg, List.range_succ] }

/-- A frame the channel brings: an invalid one or a repeated or early one of the session is answered, the one of the
next packet is delivered. -/
theorem rcvRx (h : DeliveredPrefix g r t k) (hp : r.params.Legal) (hg : g.ConfigInv r.params) {d : Bytes}
    (hd : ¬ FrameValid r.params d ∨ ∃ i, i < g.numpkt.toNat ∧ d = dataFrame r.params g i) :
    ∃ u k', exec (.rcvRx d) t = .next u ∧ DeliveredPrefix g r u k' := by
  rcases exec_rcvRx_session d h.session with ⟨hrec, hexp, hx⟩ | hx
  · rcases hd with hd | ⟨i, hi, rfl⟩
    · obtain ⟨hvalid, -⟩ := hexp
      exact absurd (h.params ▸ hvalid) hd
    · obtain rfl := h.eq_of_expects hi hexp
      exact ⟨_, i + 1, hx, h.acceptFrame hp hg hrec⟩
  · exact ⟨_, k, hx, h.sendAck⟩

theorem perform (hp : r.params.Legal) (hg : g.ConfigInv r.params) (ds : List Bytes)
    (hds : ∀ d ∈ ds, ¬ FrameValid r.params d ∨ ∃ i, i < g.numpkt.toNat ∧ d = dataFrame r.params g i)
    (h : DeliveredPrefix g r t k) :
    ∃ u k', Spec.perform (ds.map .rcvRx) t = .next u ∧ DeliveredPrefix g r u k' := by
  induction ds generalizing t k with
  | nil => exact ⟨t, k, rfl, h⟩
  | cons d ds ih =>
    obtain ⟨u, k', hu, h'⟩ := h.rcvRx hp hg (hds d List.mem_cons_self)
    obtain ⟨v, m, hv, hm⟩ := ih (fun e he => hds e (List.mem_cons_of_mem d he)) h'
    exact ⟨v, m, by rw [List.map_cons, Spec.perform, hu, andThen_next, hv], hm⟩

end DeliveredPrefix

/-! ### What a step appends to SINK (R174, R177, R181) -/

/-- What a command or a step appends to SINK, from any state: nothing, the payload of a frame, or SINK_CLOSE at the end
of the time-wait. -/
inductive SinkMove (s t : State) : Prop where
  | keep (h : t.sink = s.sink)
  | deliver (p : Bytes) (h : t.sink = s.sink ++ [.bytes p])
  | close (hst : s.rcv.st = .finalAckSent) (hdone : t.rcv.st = .done) (h : t.sink = s.sink ++ [.close])

theorem UnitMove.sink_eq {i : Instr} {s t : State} (h : UnitMove i s t) (hu : i.opc.unit ≠ 3) : t.sink = s.sink := by
  cases h with
  | receiver hu' => exact absurd hu' hu
  | global | csu | sender => rfl

section sink

variable {s t : State}

theorem execRcvOpen_sink {d : Bytes} (h : execRcvOpen d s = .next t) : t.sink = s.sink := by
  obtain rfl := Host.Outcome.next.inj h
  split_ifs <;> rfl

theorem execRcvTxerr_sink (h : execRcvTxerr s = .next t) : t.sink = s.sink := by
  obtain rfl := Host.Outcome.next.inj h
  cases s.rcv.st <;> rfl

theorem execRcvRx_sinkMove {d : Bytes} (h : execRcvRx d s = .next t) : SinkMove s t := by
  have hx : exec (.rcvRx d) s = .next t := h
  by_cases hst : s.rcv.st = .receiving
  · rcases exec_rcvRx_session d (.inl hst) with ⟨-, -, ha⟩ | ha
    · obtain rfl := Host.Outcome.next.inj (ha.symm.trans hx)
      exact .deliver _ (acceptFrame_sink d s)
    · obtain rfl := Host.Outcome.next.inj (ha.symm.trans hx)
      exact .keep rfl
  · obtain ⟨u, hu, -, hk⟩ := exec_rcvRx_outside d hst
    obtain rfl := Host.Outcome.next.inj (hu.symm.trans hx)
    exact .keep hk

theorem execRcvTick_sinkMove (h : execRcvTick s = .next t) : SinkMove s t := by
  obtain rfl := Host.Outcome.next.inj h
  split_ifs with hst
  · unfold countTimeWait
    dsimp only
    split_ifs
    · exact .close hst rfl rfl
    · exact .keep rfl
  · exact .keep rfl

/-- Only a receiver command appends to SINK. -/
theorem exec_sinkMove {i : Instr} (h : exec i s = .next t) : SinkMove s t := by
  by_cases hu : i.opc.unit = 3
  case neg => exact .keep ((exec_unitMove h).sink_eq hu)
  cases i with
  | rcvOpen d => exact .keep (execRcvOpen_sink h)
  | rcvRx d => exact execRcvRx_sinkMove h
  | rcvTick => exact execRcvTick_sinkMove h
  | rcvTxerr => exact .keep (execRcvTxerr_sink h)
  | rcvRxerr | rcvAbort => exact .keep (Host.Outcome.next.inj h ▸ rfl)
  | _ => cases hu

theorem step_sinkMove (h : step s = .next t) : SinkMove s t := by
  rcases step_cases h with ⟨-, rfl⟩ | ⟨-, -, rfl⟩ | ⟨-, i, rest, -, hx⟩ | ⟨-, r, rest, -, rfl⟩
  · exact .keep rfl
  · exact .keep rfl
  · cases exec_sinkMove hx with
    | keep h => exact .keep h
    | deliver p h => exact .deliver p h
    | close hst hdone h => exact .close hst hdone h
  · obtain ⟨c, hc | hc⟩ := rejectCommand_cases r (takeWords rest s) <;> rw [hc] <;> exact .keep rfl

end sink

end Sys2Proof.Machine

namespace Sys2Proof.Proofs

open Sys2Proof.Machine Sys2Proof.Spec

/-- Settles O41: neither check of RCV_OPEN refuses, and the Request frame has SEQ 0. -/
theorem rcvOpenIssuesTheRequest : Obligations.RcvOpenIssuesTheRequest :=
  fun _ _ hst hlen => exec_rcvOpen_opens hst hlen

/-- Settles O42: the frame is the expected one, and the accept is written out by `acceptFrame_eq`. -/
theorem rcvRxAcceptsTheExpectedFrame : Obligations.RcvRxAcceptsTheExpectedFrame := by
  intro s d hst hvalid hkind hseq
  rw [exec_rcvRx_expected hst ⟨hvalid, hkind, hseq⟩, acceptFrame_eq hst]

/-- Settles O43: each alternative denies one part of what makes a frame the expected one, so SendAck is all that
happens. -/
theorem rcvRxAnswersOrIgnoresOtherFrames : Obligations.RcvRxAnswersOrIgnoresOtherFrames := by
  refine fun s d => ⟨fun h => ?_, exec_rcvRx_ignored⟩
  rw [expected_sub_one_eq_ofInt]
  rcases h with hst | ⟨hst, hother⟩
  · exact exec_rcvRx_finalAckSent hst
  · refine exec_rcvRx_unexpected hst ?_
    rintro ⟨hvalid, hkind, hseq⟩
    rcases hother with h | h | h
    · exact h hvalid
    · exact h.not_ge hkind
    · exact h hseq

/-- Settles O44: under the invariant TWCNT is below TWDUR, so the tick counts without wrapping. -/
theorem rcvTickCountsTheTimeWait : Obligations.RcvTickCountsTheTimeWait :=
  fun _ => ⟨exec_rcvTick_ignored, fun hs hst => exec_rcvTick_counts hst (hs.twcnt_lt hst),
    fun hs hst => exec_rcvTick_closes hst (hs.twcnt_lt hst)⟩

/-- Settles O45: both commands are single updates of the receiver. -/
theorem rcvTxerrAndRcvAbortEndTheSession : Obligations.RcvTxerrAndRcvAbortEndTheSession :=
  fun _ => ⟨exec_rcvTxerr_fatal, rfl⟩

/-- Settles O46, by induction on the commands of the time-wait (`WaitedTicks.perform`). -/
theorem timeWaitEndsOnTheTwdurThTick : Obligations.TimeWaitEndsOnTheTwdurThTick := by
  intro s is hs hst hc his
  obtain ⟨hdur, -⟩ := hs.receiver
  obtain ⟨t, ht, hrcv, hsink⟩ := (WaitedTicks.zero hdur hc).perform is his hst
  rw [Nat.zero_add] at hrcv hsink
  refine ⟨t, ht, fun hlt => ?_, fun hle => ?_⟩
  · rw [if_pos hlt] at hrcv hsink
    exact ⟨hrcv, hsink⟩
  · rw [if_neg hle.not_gt] at hrcv hsink
    exact ⟨hrcv, hsink⟩

/-- Settles O47, by induction on the frames, each of which is accepted or only answered
(`perform_rcvRx_acceptedFrames`). -/
theorem deliveryIsInOrderAndEveryFrameIsAcked : Obligations.DeliveryIsInOrderAndEveryFrameIsAcked := by
  intro s ds hst
  obtain ⟨t, acc, ht, ha⟩ := perform_rcvRx_acceptedFrames ds s (.inl hst)
  exact ⟨t, acc, ht, ha.sublist, ha.sink, ha.accepted, ha.expected, ha.acks⟩

/-- Settles O48: of all a step can append to SINK, only the end of the time-wait is a SINK_CLOSE (`step_sinkMove`). -/
theorem sinkClosesOnlyAtTheEndOfTheTimeWait : Obligations.SinkClosesOnlyAtTheEndOfTheTimeWait := by
  intro s t h hcount
  cases step_sinkMove h with
  | keep hsink => exact absurd (by rw [hsink]) hcount
  | deliver p hsink => exact absurd (by simp [hsink]) hcount
  | close hst hdone hsink => exact ⟨hst, hdone, hsink⟩

/-- Settles O50, by induction on the frames the channel brings (`DeliveredPrefix.perform`): the only one that is
delivered is the frame of the next packet. -/
theorem anyChannelDeliversAPrefixOfTheSource : Obligations.AnyChannelDeliversAPrefixOfTheSource := by
  intro s r ds hs hsnd hpar hrcv hexp hds
  have hprep := hs.session.prepared hsnd
  obtain ⟨-, -, hmax, -⟩ := hs.config
  rw [← hpar] at hds
  obtain ⟨t, k, ht, hd⟩ := (DeliveredPrefix.zero (hprep.numpkt_pos hmax) hrcv hexp).perform
    (hpar ▸ hs.params) (hpar ▸ hs.config) ds hds
  have hk := hd.expected_toNat
  refine ⟨t, ht, hk ▸ hd.le, hk ▸ hd.sink, ?_⟩
  rw [hd.st, ← BitVec.toNat_inj, hk]
  simp

end Sys2Proof.Proofs

/-! SUPPORT and PROOFS for the exceptions family: the refusals and their priority (O16), the absence of a stop (O53) and
the way out of ERROR (O57). The checks of each command are said once, as the state in which it is refused; the
statements' list of causes is then met check by check (`FollowsTable.check`). -/

namespace Sys2Proof.Machine

open Sys2Proof.Spec

/-! ### The checks of a register write (R54, R103, R221) -/

/-- The statements' register numbers are the mapped ones. -/
theorem Reg.ofNumber_eq_none_of_not_mem {r : Byte} (h : r ∉ readOnlyNumbers ∧ r ∉ writableNumbers) :
    Reg.ofNumber r = none := by
  have hlisted (x : Reg) : x.number ∈ readOnlyNumbers ++ writableNumbers := by cases x <;> decide
  obtain ⟨hro, hrw⟩ := h
  cases hr : Reg.ofNumber r with
  | none => rfl
  | some x =>
    obtain rfl := Reg.number_of_ofNumber hr
    exact ((List.mem_append.1 (hlisted x)).elim hro hrw).elim

theorem Reg.exists_number_of_mem {r : Byte} (h : ¬ (r ∉ readOnlyNumbers ∧ r ∉ writableNumbers)) :
    ∃ x : Reg, x.number = r := by
  have hmapped : ∀ r ∈ readOnlyNumbers ++ writableNumbers, ∃ x ∈ Reg.all, x.number = r := by decide
  obtain ⟨x, -, hx⟩ := hmapped r (List.mem_append.2 (by tauto))
  exact ⟨x, hx⟩

theorem Reg.number_mem_readOnlyNumbers (x : Reg) : x.number ∈ readOnlyNumbers ↔ x.readOnly = true := by
  cases x <;> decide

/-- The write windows of the statements (R20 to R22, R30) are the model's. -/
theorem writeWindow_eq_false_iff (s : State) (x : Reg) :
    writeWindow s x = false ↔ (x.number = 0x10 ∨ x.number = 0x11 ∨ x.number = 0x12) ∧ ¬ sndOpen s
      ∨ x.number = 0x20 ∧ ¬ rcvOpen s := by
  have hsnd : s.snd.st.configOpen = false ↔ ¬ sndOpen s :=
    (Bool.not_eq_true _).symm.to_iff.trans (not_congr (SndState.configOpen_iff _))
  have hrcv : s.rcv.st.configOpen = false ↔ ¬ rcvOpen s :=
    (Bool.not_eq_true _).symm.to_iff.trans (not_congr (RcvState.configOpen_iff _))
  cases x <;> simp [writeWindow, Reg.number, hsnd, hrcv]

/-- The illegal values of the statements (R20 to R22, R30, R103) are the model's. -/
theorem writeLegal_eq_false_iff (s : State) (x : Reg) (v : Word) :
    writeLegal s x v = false ↔ x.number = 0x10 ∧ ¬ (1 ≤ v.toNat ∧ v.toNat ≤ 0x7FFFFFFF)
      ∨ (x.number = 0x11 ∨ x.number = 0x20) ∧ v.toNat = 0
      ∨ x.number = 0x12 ∧ ¬ (1 ≤ v.toNat ∧ v.toNat ≤ s.params.n.toNat) := by
  have hzero : v = 0#32 ↔ v.toNat = 0 := BitVec.toNat_inj.symm
  cases x <;> simp [writeLegal, Reg.number, hzero]

variable {s t : State}

theorem exec_wrreg_unmapped {r : Byte} (h : Reg.ofNumber r = none) (v : Word) :
    exec (.wrreg r v) s = .next (refuse .badRegister s) := by
  simp [exec, execWrreg, h]

theorem exec_wrreg_readOnly {x : Reg} (hro : x.readOnly = true) (v : Word) :
    exec (.wrreg x.number v) s = .next (refuse .readOnly s) := by
  simp [exec, execWrreg, Reg.ofNumber_number, hro]

theorem exec_wrreg_badState {x : Reg} (hro : x.readOnly = false) (hw : writeWindow s x = false) (v : Word) :
    exec (.wrreg x.number v) s = .next (refuse .badState s) := by
  simp [exec, execWrreg, Reg.ofNumber_number, hro, hw]

theorem exec_wrreg_badValue {x : Reg} {v : Word} (hro : x.readOnly = false) (hw : writeWindow s x = true)
    (hl : writeLegal s x v = false) : exec (.wrreg x.number v) s = .next (refuse .badValue s) := by
  simp [exec, execWrreg, Reg.ofNumber_number, hro, hw, hl]

/-- Everything WRREG can do: it is refused, or it writes a register whose window is open. -/
theorem execWrreg_cases {r : Byte} {v : Word} (h : execWrreg r v s = .next t) :
    (∃ c, t = refuse c s) ∨ ∃ x, writeWindow s x = true ∧ t = writeReg s x v := by
  obtain rfl := Host.Outcome.next.inj h
  cases Reg.ofNumber r with
  | none => exact .inl ⟨_, rfl⟩
  | some x =>
    dsimp only
    split_ifs with hro hw hl
    · exact .inl ⟨_, rfl⟩
    · exact .inl ⟨_, rfl⟩
    · exact .inl ⟨_, rfl⟩
    · exact .inr ⟨x, by simpa using hw, rfl⟩

theorem writeReg_err {x : Reg} (hx : x ≠ .err) (v : Word) : (writeReg s x v).err = s.err := by
  cases x with
  | err => exact absurd rfl hx
  | _ => rfl

/-! ### The checks of the other commands (R221) -/

theorem exec_ckGen_badLength {d : Bytes} (h : d.length ≠ frameBytes s.params) :
    exec (.ckGen d) s = .next (refuse .badLength s) := by
  rw [exec, execCkGen, if_pos h]

theorem exec_ckGen_badValue {d : Bytes} (h : d.length = frameBytes s.params) (hl : lenLegal s.params d = false) :
    exec (.ckGen d) s = .next (refuse .badValue s) := by
  simp [exec, execCkGen, h, hl]

theorem exec_ckGen_generates {d : Bytes} (h : d.length = frameBytes s.params) (hl : lenLegal s.params d = true) :
    exec (.ckGen d) s = .next { s with csu := { s.csu with res := checksum d } } := by
  simp [exec, execCkGen, h, hl]

theorem exec_sndSrc_badState (h : s.snd.st ≠ .idle ∧ s.snd.st ≠ .loading ∧ s.snd.st ≠ .done) (d : Bytes) :
    exec (.sndSrc d) s = .next (refuse .badState s) := by
  cases hst : s.snd.st with
  | idle | loading | done => simp [hst] at h
  | ready | run | error => rw [exec, execSndSrc, hst]

theorem exec_sndSrc_full {d : Bytes} (hst : s.snd.st = .idle ∨ s.snd.st = .loading)
    (hcap : s.snd.srclen.toNat + d.length > s.params.srcCap.toNat) :
    exec (.sndSrc d) s = .next (refuse .capacity s) := by
  rcases hst with hst | hst <;> simp [exec, execSndSrc, hst, hcap]

theorem exec_sndSrc_full_of_done {d : Bytes} (hst : s.snd.st = .done) (hcap : d.length > s.params.srcCap.toNat) :
    exec (.sndSrc d) s = .next (refuse .capacity s) := by
  simp [exec, execSndSrc, hst, hcap]

theorem exec_sndEof_badState (h : s.snd.st ≠ .idle ∧ s.snd.st ≠ .loading ∧ s.snd.st ≠ .done) :
    exec .sndEof s = .next (refuse .badState s) := by
  cases hst : s.snd.st with
  | idle | loading | done => simp [hst] at h
  | ready | run | error => rw [exec, execSndEof, hst]

theorem exec_sndStart_badState (h : s.snd.st ≠ .ready) : exec .sndStart s = .next (refuse .badState s) := if_neg h

theorem exec_sndTxerr_badState (h : s.snd.st ≠ .run) : exec .sndTxerr s = .next (refuse .badState s) := by
  rw [exec, execSndTxerr, if_neg h]

theorem exec_rcvOpen_badLength {d : Bytes} (h : d.length > s.params.n.toNat) :
    exec (.rcvOpen d) s = .next (refuse .badLength s) := by
  rw [exec, execRcvOpen, if_pos h]

theorem exec_rcvOpen_badState {d : Bytes} (hlen : ¬ d.length > s.params.n.toNat) (hst : ¬ rcvOpen s) :
    exec (.rcvOpen d) s = .next (refuse .badState s) := by
  rw [exec, execRcvOpen, if_neg hlen, if_neg (mt (RcvState.configOpen_iff _).1 hst)]

theorem exec_rcvTxerr_badState (h : s.rcv.st ≠ .receiving ∧ s.rcv.st ≠ .finalAckSent) :
    exec .rcvTxerr s = .next (refuse .badState s) := by
  cases hst : s.rcv.st with
  | receiving | finalAckSent => simp [hst] at h
  | idle | done | error => rw [exec, execRcvTxerr, hst]

/-! ### What an accepted command does to ERR -/

theorem fill_err {g : Sender} (h : fill { s with snd := g } = .next t) : t.err = s.err := by
  obtain ⟨fs, n, c, a, rfl⟩ := fill_frame h
  rfl

theorem execSndRx_err {d : Bytes} (h : execSndRx d s = .next t) : t.err = s.err := by
  unfold execSndRx acceptAck at h
  dsimp only at h
  split_ifs at h
  · exact Host.Outcome.next.inj h ▸ rfl
  · exact fill_err h
  · exact Host.Outcome.next.inj h ▸ rfl

theorem execSndTick_err (h : execSndTick s = .next t) : t.err = s.err := by
  unfold execSndTick countTick at h
  dsimp only at h
  split_ifs at h
  · obtain ⟨fs, rfl⟩ := resend_frame _ h
    rfl
  · exact Host.Outcome.next.inj h ▸ rfl
  · exact Host.Outcome.next.inj h ▸ rfl

theorem prepareSession_err (s : State) : (prepareSession s).err = s.err := by rw [prepareSession_frame]

theorem acceptFrame_err (d : Bytes) (s : State) : (acceptFrame d s).err = s.err := by
  unfold acceptFrame; split <;> rfl

theorem execRcvRx_err {d : Bytes} (h : execRcvRx d s = .next t) : t.err = s.err := by
  obtain rfl := Host.Outcome.next.inj h
  cases s.rcv.st with
  | receiving =>
    dsimp only
    split_ifs
    · rfl
    · rfl
    · exact acceptFrame_err d s
  | finalAckSent | idle | done | error => rfl

theorem execRcvTick_err (h : execRcvTick s = .next t) : t.err = s.err := by
  obtain rfl := Host.Outcome.next.inj h
  unfold countTimeWait
  dsimp only
  split_ifs <;> rfl

/-! ### The priority table (R220, R221) -/

/-- The state after the refusal of a command with a cause code (R220): RDREG still answers (R102). -/
def refusedWith (c : Byte) (i : Instr) (s : State) : State :=
  withErr c { s with rsp := match i with | .rdreg _ => s.rsp ++ [0] | _ => s.rsp }

/-- A command that is not refused leaves ERR alone, but for RESET and a write of ERR. -/
def KeepsErr (i : Instr) (s : State) : Prop :=
  ∀ t, exec i s = .next t → t.err = s.err ∨ i = .reset ∨ ∃ v, i = .wrreg 0x02 v

/-- The command is refused with the first of these causes; if there is none, it is not refused. -/
def FollowsTable (i : Instr) (s : State) : List Byte → Prop
  | c :: _ => exec i s = .next (refusedWith c i s)
  | [] => KeepsErr i s

/-- One row of the table: its cause is recorded where its condition holds, and otherwise the later rows decide. -/
theorem FollowsTable.check {i : Instr} {cond : Prop} {_ : Decidable cond} {c : Byte} {later : List Byte}
    (hc : cond → exec i s = .next (refusedWith c i s)) (hl : ¬ cond → FollowsTable i s later) :
    FollowsTable i s ((if cond then [c] else []) ++ later) := by
  by_cases h : cond
  · rw [if_pos h]
    exact hc h
  · rw [if_neg h]
    exact hl h

/-- The last row of the table. -/
theorem FollowsTable.last {i : Instr} {cond : Prop} {_ : Decidable cond} {c : Byte}
    (hc : cond → exec i s = .next (refusedWith c i s)) (hl : ¬ cond → KeepsErr i s) :
    FollowsTable i s (if cond then [c] else []) :=
  List.append_nil (if cond then [c] else []) ▸ .check hc hl

theorem KeepsErr.of_next {i : Instr} (h : exec i s = .next t) (he : t.err = s.err) : KeepsErr i s :=
  fun _ ht => .inl (Host.Outcome.next.inj (h.symm.trans ht) ▸ he)

theorem followsTable_rdreg (r : Byte) (s : State) : FollowsTable (.rdreg r) s (refusalCauses (.rdreg r) s) := by
  refine .last (fun hno => exec_rdreg_unmapped (Reg.ofNumber_eq_none_of_not_mem hno) s) fun hmem => ?_
  obtain ⟨x, rfl⟩ := Reg.exists_number_of_mem hmem
  exact .of_next (exec_rdreg_mapped (Reg.ofNumber_number x) s) rfl

theorem followsTable_wrreg (r : Byte) (v : Word) (s : State) :
    FollowsTable (.wrreg r v) s (refusalCauses (.wrreg r v) s) := by
  rw [refusalCauses, List.append_assoc, List.append_assoc]
  refine .check (fun hno => exec_wrreg_unmapped (Reg.ofNumber_eq_none_of_not_mem hno) v) fun hmem => ?_
  obtain ⟨x, rfl⟩ := Reg.exists_number_of_mem hmem
  rw [Reg.number_mem_readOnlyNumbers, ← writeWindow_eq_false_iff, ← writeLegal_eq_false_iff]
  refine .check (fun hro => exec_wrreg_readOnly hro v) fun hro => ?_
  rw [Bool.not_eq_true] at hro
  refine .check (fun hw => exec_wrreg_badState hro hw v) fun hw => ?_
  rw [Bool.not_eq_false] at hw
  refine .last (fun hl => exec_wrreg_badValue hro hw hl) fun hl t ht => ?_
  rw [exec_wrreg_writes hro hw (Bool.not_eq_false _ ▸ hl)] at ht
  obtain rfl := Host.Outcome.next.inj ht
  by_cases hx : x = .err
  · exact .inr (.inr ⟨v, hx ▸ rfl⟩)
  · exact .inl (writeReg_err hx v)

theorem followsTable_ckGen (d : Bytes) (s : State) : FollowsTable (.ckGen d) s (refusalCauses (.ckGen d) s) := by
  have hlegal : lenLegal s.params d = true ↔ 0 ≤ lenNum d ∧ lenNum d ≤ s.params.n.toNat := by
    rw [lenLegal, decide_eq_true_iff, lenNum_eq_lenField]
  refine .check exec_ckGen_badLength fun hlen => ?_
  rw [not_not] at hlen
  refine .last (fun hl => exec_ckGen_badValue hlen ?_) fun hl => ?_
  · exact Bool.eq_false_iff.2 (mt hlegal.1 hl)
  · exact .of_next (exec_ckGen_generates hlen (hlegal.2 (not_not.1 hl))) rfl

/-- SND_SRC and SND_EOF are allowed in IDLE, LOADING and DONE (R142, R143). -/
theorem sourceState_of_not {st : SndState} (h : ¬ (st ≠ .idle ∧ st ≠ .loading ∧ st ≠ .done)) :
    (st = .idle ∨ st = .loading) ∨ st = .done := by
  tauto

theorem followsTable_sndSrc (d : Bytes) (s : State) : FollowsTable (.sndSrc d) s (refusalCauses (.sndSrc d) s) := by
  refine .check (fun h => exec_sndSrc_badState h d) fun hst => ?_
  rcases sourceState_of_not hst with hst | hst
  · rw [if_neg (by rcases hst with hst | hst <;> simp [hst])]
    exact .last (exec_sndSrc_full hst) fun hcap => .of_next (exec_sndSrc_appends hst (not_lt.1 hcap)) rfl
  · rw [if_pos hst, Nat.zero_add]
    exact .last (exec_sndSrc_full_of_done hst) fun hcap => .of_next (exec_sndSrc_restarts hst (not_lt.1 hcap)) rfl

theorem followsTable_sndEof (s : State) : FollowsTable .sndEof s (refusalCauses .sndEof s) := by
  refine .last exec_sndEof_badState fun hst => ?_
  rcases sourceState_of_not hst with hst | hst
  · exact .of_next (exec_sndEof_prepares hst) (prepareSession_err s)
  · exact .of_next (exec_sndEof_restarts hst) (prepareSession_err (clearSession s))

theorem followsTable_sndStart (s : State) : FollowsTable .sndStart s (refusalCauses .sndStart s) := by
  refine .last exec_sndStart_badState fun hst t ht => .inl ?_
  rw [exec, execSndStart, if_pos (not_not.1 hst)] at ht
  exact fill_err ht

theorem followsTable_sndTxerr (s : State) : FollowsTable .sndTxerr s (refusalCauses .sndTxerr s) := by
  refine .last exec_sndTxerr_badState fun hst => .of_next (t := fatalSnd .txError s) ?_ rfl
  rw [exec, execSndTxerr, if_pos (not_not.1 hst)]

theorem followsTable_rcvOpen (d : Bytes) (s : State) : FollowsTable (.rcvOpen d) s (refusalCauses (.rcvOpen d) s) := by
  refine .check exec_rcvOpen_badLength fun hlen => .last (exec_rcvOpen_badState hlen) fun hst => ?_
  exact .of_next (exec_rcvOpen_opens (not_not.1 hst) (not_lt.1 hlen)) rfl

theorem followsTable_rcvTxerr (s : State) : FollowsTable .rcvTxerr s (refusalCauses .rcvTxerr s) := by
  refine .last exec_rcvTxerr_badState fun hst => ?_
  exact .of_next (exec_rcvTxerr_fatal (by tauto)) rfl

theorem followsTable_refusalCauses (i : Instr) (s : State) : FollowsTable i s (refusalCauses i s) := by
  cases i with
  | rdreg r => exact followsTable_rdreg r s
  | wrreg r v => exact followsTable_wrreg r v s
  | ckGen d => exact followsTable_ckGen d s
  | sndSrc d => exact followsTable_sndSrc d s
  | sndEof => exact followsTable_sndEof s
  | sndStart => exact followsTable_sndStart s
  | sndTxerr => exact followsTable_sndTxerr s
  | rcvOpen d => exact followsTable_rcvOpen d s
  | rcvTxerr => exact followsTable_rcvTxerr s
  | reset => exact fun _ _ => .inr (.inl rfl)
  | sndRx d => exact fun _ h => .inl (execSndRx_err h)
  | sndTick => exact fun _ h => .inl (execSndTick_err h)
  | rcvRx d => exact fun _ h => .inl (execRcvRx_err h)
  | rcvTick => exact fun _ h => .inl (execRcvTick_err h)
  | nop | ckClr | ckAdd | ckAddb | ckFold | ckFin | ckVer | sndRxerr | sndAbort | rcvRxerr | rcvAbort =>
    exact .of_next rfl rfl

/-! ### No stop (R51, log 8) -/

/-- The rounds of Fill never stop while SRCLEN does not exceed SRC_CAP. -/
theorem fillLoop_progress (k : Nat) : ∀ {s : State}, s.snd.srclen.toNat ≤ s.params.srcCap.toNat →
    ∃ t, fillLoop k s = .next t := by
  induction k with
  | zero => exact fun _ => ⟨_, rfl⟩
  | succ k ih =>
    intro s hcap
    have harm : (fillArm s).snd.srclen = s.snd.srclen := by
      rw [fillArm_snd]
      split_ifs <;> rfl
    have hcap' : (fillArm s).snd.srclen.toNat ≤ (fillArm s).params.srcCap.toNat := by
      rwa [harm, fillArm_params]
    rw [fillLoop, sendData_next hcap', andThen_next]
    exact ih hcap'

/-- No command stops while SRCLEN does not exceed SRC_CAP: only those that send data frames could. -/
theorem exec_progress (i : Instr) (hcap : s.snd.srclen.toNat ≤ s.params.srcCap.toNat) : ∃ t, exec i s = .next t := by
  cases i with
  | sndStart =>
    rw [exec, execSndStart]
    split_ifs
    · exact fillLoop_progress (s := { s with snd := { s.snd with base := 0, next := 0, st := .run } }) _ hcap
    · exact ⟨_, rfl⟩
  | sndRx d =>
    rw [exec, execSndRx, acceptAck]
    split_ifs
    · exact ⟨_, rfl⟩
    · exact fillLoop_progress (s := { s with snd := advanceBase (seqField d + 1) s.snd }) _ (by simpa using hcap)
    · exact ⟨_, rfl⟩
  | sndTick =>
    rw [exec, execSndTick, countTick]
    split_ifs
    · exact ⟨_, resend_sends _ _ { s with snd := { s.snd with stcnt := 0 } } hcap⟩
    · exact ⟨_, rfl⟩
    · exact ⟨_, rfl⟩
  | _ => exact ⟨_, rfl⟩

theorem step_progress (hcap : s.snd.srclen.toNat ≤ s.params.srcCap.toNat) : ∃ t, step s = .next t := by
  unfold step
  cases fetch s with
  | resetInput | wait | rejected => exact ⟨_, rfl⟩
  | instr i rest => exact exec_progress i hcap

theorem State.Inv.safe (hs : s.Inv) : s.Safe := ⟨hs, step_progress hs.source.1⟩

theorem State.inv_resetWith {p : Params} (hp : p.Legal) : (State.resetWith p).Inv := by
  have ⟨_, _, _, htwdur⟩ := hp
  exact (State.inv_iff _).2 ⟨hp, ErrReg.inv_clear, .reset hp, htwdur, rfl, rfl, rfl⟩

/-- The invariant holds at power-on, and steps keep it; it does not speak of the port or of the reset input. -/
theorem Reachable.inv (h : Reachable s) : s.Inv := by
  induction h with
  | powerOn p hp => exact State.inv_resetWith hp
  | stepped _ hs ih => exact (step_engineMoves ih hs).inv ih
  | issued _ _ ih | resetAsserted _ ih =>
    rw [State.inv_iff] at ih ⊢
    exact ih

/-! ### Leaving ERROR (R224) -/

/-- While its configuration is locked WRREG cannot change the sender. -/
theorem execWrreg_snd_of_locked {r : Byte} {v : Word} (h : execWrreg r v s = .next t)
    (hst : s.snd.st.configOpen = false) : t.snd = s.snd := by
  rcases execWrreg_cases h with ⟨c, rfl⟩ | ⟨x, hw, rfl⟩
  · rfl
  · cases x with
    | wsize | rto | maxpay => exact absurd hw (Bool.eq_false_iff.1 hst)
    | _ => rfl

/-- While its configuration is locked WRREG cannot change the receiver. -/
theorem execWrreg_rcv_of_locked {r : Byte} {v : Word} (h : execWrreg r v s = .next t)
    (hst : s.rcv.st.configOpen = false) : t.rcv = s.rcv := by
  rcases execWrreg_cases h with ⟨c, rfl⟩ | ⟨x, hw, rfl⟩
  · rfl
  · cases x with
    | twdur => exact absurd hw (Bool.eq_false_iff.1 hst)
    | _ => rfl

theorem execRdreg_rcv {r : Byte} (h : execRdreg r s = .next t) : t.rcv = s.rcv := by
  obtain rfl := Host.Outcome.next.inj h
  cases Reg.ofNumber r <;> rfl

/-- The commands of the checksum unit and of the sender leave the receiver alone (R60). -/
theorem exec_rcv_of_unit {i : Instr} (h : exec i s = .next t) (hu : i.opc.unit = 1 ∨ i.opc.unit = 2) :
    t.rcv = s.rcv := by
  cases exec_unitMove h with
  | csu | sender => rfl
  | global hu' | receiver hu' => omega

/-- A refused command changes no register of an engine. -/
theorem engines_of_refuse {i : Instr} {c : RefuseCause} (h : exec i s = .next t)
    (hx : exec i s = .next (refuse c s)) : t.snd = s.snd ∧ t.rcv = s.rcv := by
  obtain rfl := Host.Outcome.next.inj (h.symm.trans hx)
  exact ⟨rfl, rfl⟩

/-- A sender in ERROR is changed by SND_ABORT and RESET alone. -/
theorem exec_snd_of_error {i : Instr} {c : FatalCause} (hst : s.snd.st = .error c) (h : exec i s = .next t) :
    t.snd = s.snd ∨ t.snd.st = .idle ∧ (i = .sndAbort ∨ i = .reset) := by
  have hno : s.snd.st ≠ .idle ∧ s.snd.st ≠ .loading ∧ s.snd.st ≠ .done := by simp [hst]
  have hready : s.snd.st ≠ .ready := by simp [hst]
  have hrun : s.snd.st ≠ .run := by simp [hst]
  have hlocked : s.snd.st.configOpen = false := by rw [hst]; rfl
  cases i with
  | sndAbort => exact .inr ⟨Host.Outcome.next.inj h ▸ rfl, .inl rfl⟩
  | reset => exact .inr ⟨Host.Outcome.next.inj h ▸ rfl, .inr rfl⟩
  | nop | sndRxerr => exact .inl (Host.Outcome.next.inj h ▸ rfl)
  | rdreg r => exact .inl (execRdreg_snd h)
  | wrreg r v => exact .inl (execWrreg_snd_of_locked h hlocked)
  | sndSrc d => exact .inl (engines_of_refuse h (exec_sndSrc_badState hno d)).1
  | sndEof => exact .inl (engines_of_refuse h (exec_sndEof_badState hno)).1
  | sndStart => exact .inl (engines_of_refuse h (exec_sndStart_badState hready)).1
  | sndTxerr => exact .inl (engines_of_refuse h (exec_sndTxerr_badState hrun)).1
  | sndRx d => exact .inl (Host.Outcome.next.inj ((exec_sndRx_ignored (.inl hrun)).symm.trans h) ▸ rfl)
  | sndTick => exact .inl (Host.Outcome.next.inj ((exec_sndTick_ignored hrun).symm.trans h) ▸ rfl)
  | ckClr | ckAdd | ckAddb | ckFold | ckFin | ckGen | ckVer => exact .inl (exec_snd_of_unit h (.inl rfl))
  | rcvOpen | rcvRx | rcvRxerr | rcvTick | rcvTxerr | rcvAbort => exact .inl (exec_snd_of_unit h (.inr rfl))

/-- A receiver in ERROR is changed by RCV_ABORT and RESET alone. -/
theorem exec_rcv_of_error {i : Instr} {c : FatalCause} (hst : s.rcv.st = .error c) (h : exec i s = .next t) :
    t.rcv = s.rcv ∨ t.rcv.st = .idle ∧ (i = .rcvAbort ∨ i = .reset) := by
  have hreceiving : s.rcv.st ≠ .receiving := by simp [hst]
  have hfinal : s.rcv.st ≠ .finalAckSent := by simp [hst]
  have hclosed : ¬ rcvOpen s := by simp [rcvOpen, hst]
  have hlocked : s.rcv.st.configOpen = false := by rw [hst]; rfl
  cases i with
  | rcvAbort => exact .inr ⟨Host.Outcome.next.inj h ▸ rfl, .inl rfl⟩
  | reset => exact .inr ⟨Host.Outcome.next.inj h ▸ rfl, .inr rfl⟩
  | nop | rcvRxerr => exact .inl (Host.Outcome.next.inj h ▸ rfl)
  | rdreg r => exact .inl (execRdreg_rcv h)
  | wrreg r v => exact .inl (execWrreg_rcv_of_locked h hlocked)
  | rcvOpen d =>
    by_cases hlen : d.length > s.params.n.toNat
    · exact .inl (engines_of_refuse h (exec_rcvOpen_badLength hlen)).2
    · exact .inl (engines_of_refuse h (exec_rcvOpen_badState hlen hclosed)).2
  | rcvTxerr => exact .inl (engines_of_refuse h (exec_rcvTxerr_badState ⟨hreceiving, hfinal⟩)).2
  | rcvRx d => exact .inl (Host.Outcome.next.inj ((exec_rcvRx_ignored hreceiving hfinal).symm.trans h) ▸ rfl)
  | rcvTick => exact .inl (Host.Outcome.next.inj ((exec_rcvTick_ignored hfinal).symm.trans h) ▸ rfl)
  | ckClr | ckAdd | ckAddb | ckFold | ckFin | ckGen | ckVer => exact .inl (exec_rcv_of_unit h (.inl rfl))
  | sndSrc | sndEof | sndStart | sndRx | sndRxerr | sndTick | sndTxerr | sndAbort =>
    exact .inl (exec_rcv_of_unit h (.inr rfl))

/-- A rejected command changes no register of an engine (R220). -/
theorem engines_of_rejectCommand (r : Reject) (s : State) :
    (rejectCommand r s).snd = s.snd ∧ (rejectCommand r s).rcv = s.rcv := by
  obtain ⟨c, hc | hc⟩ := rejectCommand_cases r s <;> rw [hc] <;> exact ⟨rfl, rfl⟩

/-- What a step can do to the two engines: nothing, the reset, or the work of the command on the port. -/
theorem step_engines (h : step s = .next t) :
    (t.snd = s.snd ∧ t.rcv = s.rcv) ∨ (s.resetIn = true ∧ t = resetInput s)
      ∨ ∃ i rest, decode s.port = .instr i rest ∧ exec i (takeWords rest s) = .next t := by
  rcases step_cases h with ⟨hr, ht⟩ | ⟨-, -, rfl⟩ | ⟨-, hx⟩ | ⟨-, r, rest, -, rfl⟩
  · exact .inr (.inl ⟨hr, ht⟩)
  · exact .inl ⟨rfl, rfl⟩
  · exact .inr (.inr hx)
  · exact .inl (engines_of_rejectCommand r (takeWords rest s))

theorem step_snd_of_error {c : FatalCause} (hst : s.snd.st = .error c) (h : step s = .next t) :
    t.snd = s.snd ∨ t.snd.st = .idle ∧ (s.resetIn = true
      ∨ ∃ rest, decode s.port = .instr .sndAbort rest ∨ decode s.port = .instr .reset rest) := by
  rcases step_engines h with ⟨hsnd, -⟩ | ⟨hr, rfl⟩ | ⟨i, rest, hd, hx⟩
  · exact .inl hsnd
  · exact .inr ⟨rfl, .inl hr⟩
  · rcases exec_snd_of_error (s := takeWords rest s) hst hx with hsnd | ⟨hidle, rfl | rfl⟩
    · exact .inl hsnd
    · exact .inr ⟨hidle, .inr ⟨rest, .inl hd⟩⟩
    · exact .inr ⟨hidle, .inr ⟨rest, .inr hd⟩⟩

theorem step_rcv_of_error {c : FatalCause} (hst : s.rcv.st = .error c) (h : step s = .next t) :
    t.rcv = s.rcv ∨ t.rcv.st = .idle ∧ (s.resetIn = true
      ∨ ∃ rest, decode s.port = .instr .rcvAbort rest ∨ decode s.port = .instr .reset rest) := by
  rcases step_engines h with ⟨-, hrcv⟩ | ⟨hr, rfl⟩ | ⟨i, rest, hd, hx⟩
  · exact .inl hrcv
  · exact .inr ⟨rfl, .inl hr⟩
  · rcases exec_rcv_of_error (s := takeWords rest s) hst hx with hrcv | ⟨hidle, rfl | rfl⟩
    · exact .inl hrcv
    · exact .inr ⟨hidle, .inr ⟨rest, .inl hd⟩⟩
    · exact .inr ⟨hidle, .inr ⟨rest, .inr hd⟩⟩

end Sys2Proof.Machine

namespace Sys2Proof.Proofs

open Sys2Proof.Machine Sys2Proof.Spec

/-- Settles O16, by the checks of each command in the order of the table (`FollowsTable.check`). -/
theorem refusalsFollowThePriorityTable : Obligations.RefusalsFollowThePriorityTable :=
  followsTable_refusalCauses

/-- Settles O53: every reachable state meets the invariant, under which SRCLEN is at most SRC_CAP and no data frame is
read from outside SRC. -/
theorem noReachableStateStops : Obligations.NoReachableStateStops :=
  fun _ h => h.inv.safe

/-- Settles O57: in ERROR an engine's own commands but ABORT are refused or ignored, its configuration is locked, and
the other units do not touch it. -/
theorem errorIsLeftOnlyByAbortOrReset : Obligations.ErrorIsLeftOnlyByAbortOrReset :=
  fun _ _ h => ⟨fun _ hst => step_snd_of_error hst h, fun _ hst => step_rcv_of_error hst h⟩

end Sys2Proof.Proofs

/-! SUPPORT and PROOFS for the reset and hazards family: the reset values and the two ways to reset (O10 to O12, O52), a
string split at an even offset (O19), and the lock on the configuration of a session (O58). The lock is read off one
frame lemma per command, from any state: only WRREG, which the lock refuses, and RESET change a configuration. -/

namespace Sys2Proof.Machine

open Sys2Proof.Spec

/-! ### The reset values (R240, R241) -/

/-- Reading the numbers of the table one after another in a reset state gives the table's values. -/
theorem map_registerValue_applyReset (s : State) :
    (resetTable s.params).map (fun x => registerValue (applyReset s) x.1) = (resetTable s.params).map (some ·.2) := rfl

theorem registerValue_applyReset (s : State) :
    ∀ x ∈ resetTable s.params, registerValue (applyReset s) x.1 = some x.2 :=
  List.map_inj_left.1 (map_registerValue_applyReset s)

/-- Power-on is a state that a reset leaves as it is. -/
theorem applyReset_resetWith (p : Params) : applyReset (State.resetWith p) = State.resetWith p := rfl

theorem registerValue_resetWith (p : Params) :
    ∀ x ∈ resetTable p, registerValue (State.resetWith p) x.1 = some x.2 :=
  applyReset_resetWith p ▸ registerValue_applyReset (State.resetWith p)

theorem step_resetInput {s : State} (hr : s.resetIn = true) : step s = .next (resetInput s) := by
  simp [step, fetch, hr]

/-! ### Adding a string in two parts (R251) -/

theorem ckAddWords_append (c : Csu) (ws ws' : List Half) :
    ckAddWords c (ws ++ ws') = ckAddWords (ckAddWords c ws) ws' := List.foldl_append

/-! ### What each command does to the configuration (R20 to R22, R30, R248) -/

/-- WSIZE, RTO and MAXPAY. -/
def Sender.configuration (g : Sender) : Word × Word × Word := (g.wsize, g.rto, g.maxpay)

theorem Sender.configuration_eq_iff (g g' : Sender) :
    g'.configuration = g.configuration ↔ g'.wsize = g.wsize ∧ g'.rto = g.rto ∧ g'.maxpay = g.maxpay := by
  simp [Sender.configuration]

section configuration

variable {s t : State}

/-! #### Sender commands -/

theorem execSndSrc_configuration {d : Bytes} (h : execSndSrc d s = .next t) :
    t.snd.configuration = s.snd.configuration := by
  obtain rfl := Host.Outcome.next.inj h
  cases s.snd.st with
  | idle | loading | done => dsimp only; split_ifs <;> rfl
  | ready | run | error => rfl

theorem prepareSession_configuration (s : State) : (prepareSession s).snd.configuration = s.snd.configuration := by
  unfold prepareSession
  split_ifs <;> rfl

theorem execSndEof_configuration (h : execSndEof s = .next t) : t.snd.configuration = s.snd.configuration := by
  obtain rfl := Host.Outcome.next.inj h
  cases s.snd.st with
  | idle | loading => exact prepareSession_configuration s
  | done => exact prepareSession_configuration (clearSession s)
  | ready | run | error => rfl

theorem fill_configuration (h : fill s = .next t) : t.snd.configuration = s.snd.configuration := by
  obtain ⟨fs, n, c, a, rfl⟩ := fill_frame h
  rfl

theorem execSndStart_configuration (h : execSndStart s = .next t) : t.snd.configuration = s.snd.configuration := by
  unfold execSndStart at h
  split_ifs at h
  · exact (fill_configuration h :)
  · exact Host.Outcome.next.inj h ▸ rfl

theorem advanceBase_configuration (b : Word) (g : Sender) : (advanceBase b g).configuration = g.configuration := by
  unfold advanceBase
  split_ifs <;> rfl

theorem execSndRx_configuration {d : Bytes} (h : execSndRx d s = .next t) :
    t.snd.configuration = s.snd.configuration := by
  unfold execSndRx acceptAck at h
  dsimp only at h
  split_ifs at h
  · exact Host.Outcome.next.inj h ▸ advanceBase_configuration _ s.snd
  · exact (fill_configuration h).trans (advanceBase_configuration _ s.snd)
  · exact Host.Outcome.next.inj h ▸ rfl

theorem execSndTick_configuration (h : execSndTick s = .next t) : t.snd.configuration = s.snd.configuration := by
  unfold execSndTick countTick at h
  dsimp only at h
  split_ifs at h
  · obtain ⟨fs, rfl⟩ := resend_frame _ h
    rfl
  · exact Host.Outcome.next.inj h ▸ rfl
  · exact Host.Outcome.next.inj h ▸ rfl

theorem execSndTxerr_configuration (h : execSndTxerr s = .next t) : t.snd.configuration = s.snd.configuration := by
  obtain rfl := Host.Outcome.next.inj h
  split_ifs <;> rfl

/-- While it is locked, the sender's configuration is changed by RESET alone. -/
theorem exec_configuration_of_locked {i : Instr} (h : exec i s = .next t) (hst : s.snd.st.configOpen = false) :
    t.snd.configuration = s.snd.configuration ∨ i = .reset := by
  cases i with
  | reset => exact .inr rfl
  | nop | sndRxerr | sndAbort => exact .inl (Host.Outcome.next.inj h ▸ rfl)
  | rdreg r => exact .inl (congrArg Sender.configuration (execRdreg_snd h))
  | wrreg r v => exact .inl (congrArg Sender.configuration (execWrreg_snd_of_locked h hst))
  | sndSrc d => exact .inl (execSndSrc_configuration h)
  | sndEof => exact .inl (execSndEof_configuration h)
  | sndStart => exact .inl (execSndStart_configuration h)
  | sndRx d => exact .inl (execSndRx_configuration h)
  | sndTick => exact .inl (execSndTick_configuration h)
  | sndTxerr => exact .inl (execSndTxerr_configuration h)
  | ckClr | ckAdd | ckAddb | ckFold | ckFin | ckGen | ckVer =>
    exact .inl (congrArg Sender.configuration (exec_snd_of_unit h (.inl rfl)))
  | rcvOpen | rcvRx | rcvRxerr | rcvTick | rcvTxerr | rcvAbort =>
    exact .inl (congrArg Sender.configuration (exec_snd_of_unit h (.inr rfl)))

/-! #### Receiver commands -/

theorem execRcvOpen_twdur {d : Bytes} (h : execRcvOpen d s = .next t) : t.rcv.twdur = s.rcv.twdur := by
  obtain rfl := Host.Outcome.next.inj h
  split_ifs <;> rfl

@[simp] theorem acceptFrame_twdur (d : Bytes) (s : State) : (acceptFrame d s).rcv.twdur = s.rcv.twdur := by
  unfold acceptFrame
  split <;> rfl

theorem execRcvRx_twdur {d : Bytes} (h : execRcvRx d s = .next t) : t.rcv.twdur = s.rcv.twdur := by
  obtain rfl := Host.Outcome.next.inj h
  cases s.rcv.st with
  | receiving =>
    dsimp only
    split_ifs
    · rfl
    · rfl
    · exact acceptFrame_twdur d s
  | finalAckSent | idle | done | error => rfl

theorem execRcvTick_twdur (h : execRcvTick s = .next t) : t.rcv.twdur = s.rcv.twdur := by
  obtain rfl := Host.Outcome.next.inj h
  unfold countTimeWait
  dsimp only
  split_ifs <;> rfl

theorem execRcvTxerr_twdur (h : execRcvTxerr s = .next t) : t.rcv.twdur = s.rcv.twdur := by
  obtain rfl := Host.Outcome.next.inj h
  cases s.rcv.st <;> rfl

/-- While it is locked, TWDUR is changed by RESET alone. -/
theorem exec_twdur_of_locked {i : Instr} (h : exec i s = .next t) (hst : s.rcv.st.configOpen = false) :
    t.rcv.twdur = s.rcv.twdur ∨ i = .reset := by
  cases i with
  | reset => exact .inr rfl
  | nop | rcvRxerr | rcvAbort => exact .inl (Host.Outcome.next.inj h ▸ rfl)
  | rdreg r => exact .inl (congrArg Receiver.twdur (execRdreg_rcv h))
  | wrreg r v => exact .inl (congrArg Receiver.twdur (execWrreg_rcv_of_locked h hst))
  | rcvOpen d => exact .inl (execRcvOpen_twdur h)
  | rcvRx d => exact .inl (execRcvRx_twdur h)
  | rcvTick => exact .inl (execRcvTick_twdur h)
  | rcvTxerr => exact .inl (execRcvTxerr_twdur h)
  | ckClr | ckAdd | ckAddb | ckFold | ckFin | ckGen | ckVer =>
    exact .inl (congrArg Receiver.twdur (exec_rcv_of_unit h (.inl rfl)))
  | sndSrc | sndEof | sndStart | sndRx | sndRxerr | sndTick | sndTxerr | sndAbort =>
    exact .inl (congrArg Receiver.twdur (exec_rcv_of_unit h (.inr rfl)))

/-! #### The step -/

theorem step_configuration_of_locked (h : step s = .next t) (hst : s.snd.st.configOpen = false) :
    t.snd.configuration = s.snd.configuration ∨ s.resetIn = true ∨ ∃ rest, decode s.port = .instr .reset rest := by
  rcases step_engines h with ⟨hsnd, -⟩ | ⟨hr, -⟩ | ⟨i, rest, hd, hx⟩
  · exact .inl (congrArg Sender.configuration hsnd)
  · exact .inr (.inl hr)
  · rcases exec_configuration_of_locked (s := takeWords rest s) hx hst with hkeep | rfl
    · exact .inl hkeep
    · exact .inr (.inr ⟨rest, hd⟩)

theorem step_twdur_of_locked (h : step s = .next t) (hst : s.rcv.st.configOpen = false) :
    t.rcv.twdur = s.rcv.twdur ∨ s.resetIn = true ∨ ∃ rest, decode s.port = .instr .reset rest := by
  rcases step_engines h with ⟨-, hrcv⟩ | ⟨hr, -⟩ | ⟨i, rest, hd, hx⟩
  · exact .inl (congrArg Receiver.twdur hrcv)
  · exact .inr (.inl hr)
  · rcases exec_twdur_of_locked (s := takeWords rest s) hx hst with hkeep | rfl
    · exact .inl hkeep
    · exact .inr (.inr ⟨rest, hd⟩)

end configuration

end Sys2Proof.Machine

namespace Sys2Proof.Proofs

open Sys2Proof.Machine Sys2Proof.Spec

/-- Settles O10: the power-on state is a reset state of its own parameters, and the interface's parameters are legal. -/
theorem powerOnRegistersHaveResetValues : Obligations.PowerOnRegistersHaveResetValues :=
  ⟨registerValue_resetWith, registerValue_resetWith Config.params, Config.params_legal⟩

/-- Settles O11: RESET answers `applyReset`, which writes the registers alone. -/
theorem resetCommandRestoresEveryRegister : Obligations.ResetCommandRestoresEveryRegister :=
  fun s => ⟨applyReset s, rfl, registerValue_applyReset s, rfl, rfl, rfl, rfl, rfl, rfl, rfl⟩

/-- Settles O12: a pending reset comes before the port, and is the reset of the RESET command. -/
theorem resetInputActsAsResetCommand : Obligations.ResetInputActsAsResetCommand :=
  fun s hr => ⟨applyReset s, rfl, step_resetInput hr⟩

/-- Settles O19: a first part of even length ends at a word, so the words of the whole are those of its parts
(`words_append`), added in order. -/
theorem ckAddbSplitsAtEvenOffsets : Obligations.CkAddbSplitsAtEvenOffsets := by
  intro s a b ha
  simp only [perform, exec, execCkAddb, andThen_next, words_append a b ha, ckAddWords_append]

/-- Settles O52: every unit is reset to a state of its own invariant (`State.inv_resetWith`). -/
theorem resetMeetsTheInvariant : Obligations.ResetMeetsTheInvariant :=
  ⟨fun _ => State.inv_resetWith, State.inv_resetWith Config.params_legal⟩

/-- Settles O58: outside IDLE and DONE the write window is shut, and no other command but RESET writes the
configuration. -/
theorem configurationIsLockedInASession : Obligations.ConfigurationIsLockedInASession := by
  intro s t h
  refine ⟨fun hidle hdone => ?_, fun hidle hdone => ?_⟩
  · have hlocked : s.snd.st.configOpen = false := by simp [← Bool.not_eq_true, SndState.configOpen_iff, hidle, hdone]
    rw [← Sender.configuration_eq_iff]
    exact step_configuration_of_locked h hlocked
  · have hlocked : s.rcv.st.configOpen = false := by simp [← Bool.not_eq_true, RcvState.configOpen_iff, hidle, hdone]
    exact step_twdur_of_locked h hlocked

end Sys2Proof.Proofs
